-- ==== Sys2Proof/Word.lean ====
section
/-! DEFINITION. The byte and lane types of the link, and the fixed-length table that holds the sixteen
cursors, the sixty-four volumes and the per-volume settings. -/

namespace Sys2Proof

/-- One byte on the link (R180). -/
abbrev Byte := BitVec 8

/-- The levels of the data lanes D3 to D0 at one SCK clock (R180); bit 0 is D0. -/
abbrev Lanes := BitVec 4

/-- A table of exactly `n` like things, numbered from 0. -/
structure Table (α : Type) (n : Nat) where
  list : List α
  size : list.length = n
  deriving DecidableEq, Repr

def Table.get {α : Type} {n : Nat} (t : Table α n) (i : Fin n) : α :=
  t.list.get ⟨i.val, by rw [t.size]; exact i.isLt⟩

def Table.set {α : Type} {n : Nat} (t : Table α n) (i : Fin n) (x : α) : Table α n :=
  ⟨t.list.set i.val x, by rw [List.length_set, t.size]⟩

def Table.map {α β : Type} {n : Nat} (f : α → β) (t : Table α n) : Table β n :=
  ⟨t.list.map f, by rw [List.length_map, t.size]⟩

def Table.fill {α : Type} (n : Nat) (x : α) : Table α n :=
  ⟨List.replicate n x, List.length_replicate⟩

end Sys2Proof
end

