-- ==== Sys2Proof/Syntax.lean ====
section
/-! DEFINITION. The commands: one constructor for each row of spec/opcode_table.json. A host command
carries its form byte and the argument fields of R211, each in its width on the link; its row is the
arrival of its last argument byte (R181). The other rows are events at the pins, the store, the scan,
the time base and the engine. -/

namespace Sys2Proof

/-- The 32 bytes of an item header as WRITE ITEM carries them, field by field (R212). The fields that
the part ignores on a write are kept, so that no byte of the frame is lost. -/
structure WireHeader where
  accession : BitVec 24
  state : Byte
  carrierKind : Byte
  side : Byte
  track : Byte
  reserved7 : Byte
  carrierId : BitVec 32
  duration : BitVec 40
  restriction : Byte
  grade : Byte
  segmentCount : Byte
  trim : BitVec 16
  successor : BitVec 24
  reserved25 : Byte
  revision : BitVec 16
  useCount : Byte
  pendingByte : Byte
  reserved30 : BitVec 16
  deriving DecidableEq, Repr

/-- The 48 bytes of a segment, cut as a TRANSFER segment's fields are (R212). A REFERENCE segment's
target accession stands in `rate`, and its target offset in `nominal`, `speed` and the first byte of
`count` (`WireSegment.targetOffset`). -/
structure WireSegment where
  kind : Byte
  format : Byte
  trim : BitVec 16
  start : BitVec 40
  length : BitVec 40
  rate : BitVec 24
  nominal : BitVec 16
  speed : BitVec 16
  count : BitVec 48
  primaryVolume : Byte
  primaryFile : BitVec 24
  primaryBase : BitVec 48
  secondaryVolume : Byte
  secondaryFile : BitVec 24
  secondaryBase : BitVec 48
  reserved : Byte
  deriving DecidableEq, Repr

/-- The field-select byte of SET ITEM FIELDS and the seven values that follow it (R211). -/
structure WireFields where
  select : Byte
  trim : BitVec 16
  restriction : Byte
  grade : Byte
  carrierKind : Byte
  carrierId : BitVec 32
  side : Byte
  track : Byte
  deriving DecidableEq, Repr

/-- The commands and events of the part, one for each row of the table. -/
inductive Instr where
  | readItem (form : Byte) (accession : BitVec 24)
  | readSegments (form : Byte) (accession : BitVec 24) (first maximum : Byte)
  | enumerate (form : Byte) (start : BitVec 24) (mask maximum : Byte)
  | findCarrier (form : Byte) (carrierId : BitVec 32) (kindFilter startSide startTrack : Byte)
      (startAccession : BitVec 24) (maximum : Byte)
  | locate (form : Byte) (accession : BitVec 24) (position : BitVec 40) (clearance : Byte)
  | writeItem (form : Byte) (header : WireHeader) (segments : List WireSegment)
  | amendSegments (form : Byte) (accession : BitVec 24) (first oldCount newCount : Byte)
      (run : List WireSegment)
  | setItemFields (form : Byte) (accession : BitVec 24) (fields : WireFields)
  | certifyItem (form : Byte) (accession : BitVec 24)
  | retireItem (form : Byte) (accession successor : BitVec 24)
  | purgeItem (form : Byte) (accession : BitVec 24)
  | clearHoldings (form : Byte)
  | storeSettings (form : Byte)
  | cancelPending (form : Byte) (accession : BitVec 24)
  | readPending (form : Byte)
  | freeze (form : Byte)
  | thaw (form : Byte)
  | openCursor (form cursor : Byte) (accession : BitVec 24) (position : BitVec 40)
      (chunk : BitVec 24) (clearance preference : Byte) (trim : BitVec 16)
  | seek (form cursor kind : Byte) (value : BitVec 40)
  | setLoop (form cursor : Byte) (start length : BitVec 40)
  | clearLoop (form cursor : Byte)
  | fetch (form cursor : Byte)
  | closeCursor (form cursor : Byte)
  | readCursor (form cursor : Byte)
  | reportFault (form volume : Byte)
  | probeResult (form volume result : Byte)
  | probeVolume (form volume : Byte)
  | failVolume (form volume : Byte)
  | restoreVolume (form volume : Byte)
  | readVolumes (form first maximum : Byte)
  | armNotices (form : Byte)
  | takeNotices (form : Byte)
  | enableNotices (form : Byte) (setMask clearMask : BitVec 16)
  | setSetting (form number volume : Byte) (value : BitVec 32)
  | readSetting (form number volume : Byte)
  | readStatus (form : Byte)
  | readIdentity (form : Byte)
  | clearCondition (form : Byte)
  | reset (form : Byte)
  /-- The code byte of a frame has arrived and names no command (R184). -/
  | unknownCommand (code : Byte)
  /-- SEL falls (R180). -/
  | frameOpen
  /-- SEL rises (R183). `sampled` is the lanes at each SCK clock since the frame's last row, oldest
  first: since the fall of SEL, or since the clock that brought the last argument byte. -/
  | frameEnd (sampled : List Lanes)
  /-- RESET_N falls or the supplies fail (R191). `markWritten` says whether the closing mark of the
  change in flight, if any, had been written by then (R156). -/
  | hardReset (markWritten : Bool)
  /-- RESET_N rises with the supplies at operating level (R191). -/
  | resetNRelease
  /-- The start-up scan completes (R20). -/
  | scanComplete
  /-- The store reports the closing mark written (R144). -/
  | commitComplete
  /-- The store reports a write failure (R146). -/
  | commitStoreFault
  /-- The engine takes the oldest READY entry (R150). -/
  | takeReadyEntry
  /-- The millisecond count rises by 1 (R111). -/
  | timeBaseTick
  | tfwinExpiry (volume : Fin 64)
  | tpwaitExpiry (volume : Fin 64)
  | tptoExpiry (volume : Fin 64)
  | tstableExpiry (volume : Fin 64)
  /-- The age of the entry for `accession` has reached a threshold (R167). -/
  | stageReached (accession : BitVec 24)
  deriving DecidableEq, Repr

end Sys2Proof
end

