-- ==== Sys2Proof/Decode.lean ====
section
/-! DEFINITION. The bytes of the link: most significant byte first (R209), the command codes and
argument layouts of R211 and R212, reading a frame's bytes as a command (R180, R181) and writing a
command as its frame's bytes. The rows of spec/opcode_table.json have no bits, so
`decodeTableWord` reads no command from a table word. -/

namespace Sys2Proof

/-- A number in `n` bytes, most significant byte first (R209). -/
def bytesOf : Nat → Nat → List Byte
  | 0, _ => []
  | n + 1, x => BitVec.ofNat 8 (x / 256 ^ n) :: bytesOf n x

/-- A signed number in `n` bytes, two's complement, most significant byte first (R209). -/
def signedBytesOf (n : Nat) (x : Int) : List Byte :=
  bytesOf n (x % (256 ^ n : Nat)).toNat

/-- The number a list of bytes spells, most significant byte first (R209). -/
def numberOf (bytes : List Byte) : Nat :=
  bytes.foldl (fun acc b => acc * 256 + b.toNat) 0

/-- The field of `n` bytes that begins at byte `offset` of a layout. -/
def fieldOf (w offset n : Nat) (bytes : List Byte) : BitVec w :=
  BitVec.ofNat w (numberOf ((bytes.drop offset).take n))

/-- The 32 bytes of an item header (R212). -/
def WireHeader.bytes (h : WireHeader) : List Byte :=
  bytesOf 3 h.accession.toNat ++ [h.state, h.carrierKind, h.side, h.track, h.reserved7]
    ++ bytesOf 4 h.carrierId.toNat ++ bytesOf 5 h.duration.toNat
    ++ [h.restriction, h.grade, h.segmentCount] ++ bytesOf 2 h.trim.toNat
    ++ bytesOf 3 h.successor.toNat ++ [h.reserved25] ++ bytesOf 2 h.revision.toNat
    ++ [h.useCount, h.pendingByte] ++ bytesOf 2 h.reserved30.toNat

/-- The item header that 32 bytes spell (R212). -/
def WireHeader.ofBytes (b : List Byte) : WireHeader where
  accession := fieldOf 24 0 3 b
  state := fieldOf 8 3 1 b
  carrierKind := fieldOf 8 4 1 b
  side := fieldOf 8 5 1 b
  track := fieldOf 8 6 1 b
  reserved7 := fieldOf 8 7 1 b
  carrierId := fieldOf 32 8 4 b
  duration := fieldOf 40 12 5 b
  restriction := fieldOf 8 17 1 b
  grade := fieldOf 8 18 1 b
  segmentCount := fieldOf 8 19 1 b
  trim := fieldOf 16 20 2 b
  successor := fieldOf 24 22 3 b
  reserved25 := fieldOf 8 25 1 b
  revision := fieldOf 16 26 2 b
  useCount := fieldOf 8 28 1 b
  pendingByte := fieldOf 8 29 1 b
  reserved30 := fieldOf 16 30 2 b

/-- The 48 bytes of a segment (R212). -/
def WireSegment.bytes (g : WireSegment) : List Byte :=
  [g.kind, g.format] ++ bytesOf 2 g.trim.toNat ++ bytesOf 5 g.start.toNat
    ++ bytesOf 5 g.length.toNat ++ bytesOf 3 g.rate.toNat ++ bytesOf 2 g.nominal.toNat
    ++ bytesOf 2 g.speed.toNat ++ bytesOf 6 g.count.toNat ++ [g.primaryVolume]
    ++ bytesOf 3 g.primaryFile.toNat ++ bytesOf 6 g.primaryBase.toNat ++ [g.secondaryVolume]
    ++ bytesOf 3 g.secondaryFile.toNat ++ bytesOf 6 g.secondaryBase.toNat ++ [g.reserved]

/-- The segment that 48 bytes spell (R212). -/
def WireSegment.ofBytes (b : List Byte) : WireSegment where
  kind := fieldOf 8 0 1 b
  format := fieldOf 8 1 1 b
  trim := fieldOf 16 2 2 b
  start := fieldOf 40 4 5 b
  length := fieldOf 40 9 5 b
  rate := fieldOf 24 14 3 b
  nominal := fieldOf 16 17 2 b
  speed := fieldOf 16 19 2 b
  count := fieldOf 48 21 6 b
  primaryVolume := fieldOf 8 27 1 b
  primaryFile := fieldOf 24 28 3 b
  primaryBase := fieldOf 48 31 6 b
  secondaryVolume := fieldOf 8 37 1 b
  secondaryFile := fieldOf 24 38 3 b
  secondaryBase := fieldOf 48 41 6 b
  reserved := fieldOf 8 47 1 b

/-- The `n` segments that stand one after another in a frame's bytes (R212). -/
def segmentsOfBytes : Nat → List Byte → List WireSegment
  | 0, _ => []
  | n + 1, b => WireSegment.ofBytes (b.take 48) :: segmentsOfBytes n (b.drop 48)

/-- The value bytes of SET ITEM FIELDS, from the field select on (R211). -/
def WireFields.bytes (f : WireFields) : List Byte :=
  [f.select] ++ bytesOf 2 f.trim.toNat ++ [f.restriction, f.grade, f.carrierKind]
    ++ bytesOf 4 f.carrierId.toNat ++ [f.side, f.track]

def WireFields.ofBytes (b : List Byte) : WireFields where
  select := fieldOf 8 0 1 b
  trim := fieldOf 16 1 2 b
  restriction := fieldOf 8 3 1 b
  grade := fieldOf 8 4 1 b
  carrierKind := fieldOf 8 5 1 b
  carrierId := fieldOf 32 6 4 b
  side := fieldOf 8 10 1 b
  track := fieldOf 8 11 1 b

/-! The fields that a field-select byte names (R211). -/

def WireFields.namesTrim (f : WireFields) : Bool := f.select.getLsbD 0
def WireFields.namesRestriction (f : WireFields) : Bool := f.select.getLsbD 1
def WireFields.namesGrade (f : WireFields) : Bool := f.select.getLsbD 2
def WireFields.namesKind (f : WireFields) : Bool := f.select.getLsbD 3
def WireFields.namesCarrierId (f : WireFields) : Bool := f.select.getLsbD 4
def WireFields.namesSide (f : WireFields) : Bool := f.select.getLsbD 5
def WireFields.namesTrack (f : WireFields) : Bool := f.select.getLsbD 6

/-- How many segments the part waits for after a count byte: the count when it is 1 to 64, and none
when it is out of range (R31, R32). -/
def expectedSegments (count : Byte) : Nat :=
  if 1 ≤ count.toNat ∧ count.toNat ≤ 64 then count.toNat else 0

/-- The command codes of R211. An event of the part has none. -/
def Instr.code : Instr → Option Byte
  | .readItem .. => some 0x10
  | .readSegments .. => some 0x11
  | .enumerate .. => some 0x12
  | .findCarrier .. => some 0x13
  | .locate .. => some 0x14
  | .writeItem .. => some 0x20
  | .amendSegments .. => some 0x21
  | .setItemFields .. => some 0x22
  | .certifyItem .. => some 0x23
  | .retireItem .. => some 0x24
  | .purgeItem .. => some 0x25
  | .clearHoldings .. => some 0x26
  | .cancelPending .. => some 0x28
  | .readPending .. => some 0x29
  | .freeze .. => some 0x2A
  | .thaw .. => some 0x2B
  | .openCursor .. => some 0x30
  | .seek .. => some 0x31
  | .setLoop .. => some 0x32
  | .clearLoop .. => some 0x33
  | .fetch .. => some 0x34
  | .closeCursor .. => some 0x35
  | .readCursor .. => some 0x36
  | .reportFault .. => some 0x40
  | .probeResult .. => some 0x41
  | .probeVolume .. => some 0x42
  | .failVolume .. => some 0x43
  | .restoreVolume .. => some 0x44
  | .readVolumes .. => some 0x45
  | .armNotices .. => some 0x50
  | .takeNotices .. => some 0x51
  | .enableNotices .. => some 0x52
  | .setSetting .. => some 0x60
  | .readSetting .. => some 0x61
  | .storeSettings .. => some 0x62
  | .readStatus .. => some 0x70
  | .readIdentity .. => some 0x71
  | .clearCondition .. => some 0x72
  | .reset .. => some 0x7F
  | .unknownCommand code => some code
  | .frameOpen | .frameEnd .. | .hardReset .. | .resetNRelease | .scanComplete | .commitComplete
  | .commitStoreFault | .takeReadyEntry | .timeBaseTick | .tfwinExpiry .. | .tpwaitExpiry ..
  | .tptoExpiry .. | .tstableExpiry .. | .stageReached .. => none

/-- How many argument bytes follow the form byte, found from the command code and, for WRITE ITEM and
AMEND SEGMENTS, from a count in the arguments received so far (R181, R211). `none` for a code that
names no command (R184). -/
def argumentLength (code : Byte) (args : List Byte) : Option Nat :=
  match code.toNat with
  | 0x10 => some 3
  | 0x11 => some 5
  | 0x12 => some 5
  | 0x13 => some 11
  | 0x14 => some 9
  | 0x20 => some (32 + 48 * expectedSegments (fieldOf 8 19 1 args))
  | 0x21 => some (6 + 48 * expectedSegments (fieldOf 8 5 1 args))
  | 0x22 => some 15
  | 0x23 => some 3
  | 0x24 => some 6
  | 0x25 => some 3
  | 0x26 => some 0
  | 0x28 => some 3
  | 0x29 => some 0
  | 0x2A => some 0
  | 0x2B => some 0
  | 0x30 => some 16
  | 0x31 => some 7
  | 0x32 => some 11
  | 0x33 => some 1
  | 0x34 => some 1
  | 0x35 => some 1
  | 0x36 => some 1
  | 0x40 => some 1
  | 0x41 => some 2
  | 0x42 => some 1
  | 0x43 => some 1
  | 0x44 => some 1
  | 0x45 => some 2
  | 0x50 => some 0
  | 0x51 => some 0
  | 0x52 => some 4
  | 0x60 => some 6
  | 0x61 => some 2
  | 0x62 => some 0
  | 0x70 => some 0
  | 0x71 => some 0
  | 0x72 => some 0
  | 0x7F => some 0
  | _ => none

/-- Whether a command code names a command (R184, R211). -/
def knownCode (code : Byte) : Bool :=
  (argumentLength code []).isSome

/-- The command that a known code, a form byte and all its argument bytes spell (R211). -/
def commandOf (code form : Byte) (a : List Byte) : Option Instr :=
  match code.toNat with
  | 0x10 => some (.readItem form (fieldOf 24 0 3 a))
  | 0x11 => some (.readSegments form (fieldOf 24 0 3 a) (fieldOf 8 3 1 a) (fieldOf 8 4 1 a))
  | 0x12 => some (.enumerate form (fieldOf 24 0 3 a) (fieldOf 8 3 1 a) (fieldOf 8 4 1 a))
  | 0x13 => some (.findCarrier form (fieldOf 32 0 4 a) (fieldOf 8 4 1 a) (fieldOf 8 5 1 a)
      (fieldOf 8 6 1 a) (fieldOf 24 7 3 a) (fieldOf 8 10 1 a))
  | 0x14 => some (.locate form (fieldOf 24 0 3 a) (fieldOf 40 3 5 a) (fieldOf 8 8 1 a))
  | 0x20 => some (.writeItem form (WireHeader.ofBytes (a.take 32))
      (segmentsOfBytes (expectedSegments (fieldOf 8 19 1 a)) (a.drop 32)))
  | 0x21 => some (.amendSegments form (fieldOf 24 0 3 a) (fieldOf 8 3 1 a) (fieldOf 8 4 1 a)
      (fieldOf 8 5 1 a) (segmentsOfBytes (expectedSegments (fieldOf 8 5 1 a)) (a.drop 6)))
  | 0x22 => some (.setItemFields form (fieldOf 24 0 3 a) (WireFields.ofBytes (a.drop 3)))
  | 0x23 => some (.certifyItem form (fieldOf 24 0 3 a))
  | 0x24 => some (.retireItem form (fieldOf 24 0 3 a) (fieldOf 24 3 3 a))
  | 0x25 => some (.purgeItem form (fieldOf 24 0 3 a))
  | 0x26 => some (.clearHoldings form)
  | 0x28 => some (.cancelPending form (fieldOf 24 0 3 a))
  | 0x29 => some (.readPending form)
  | 0x2A => some (.freeze form)
  | 0x2B => some (.thaw form)
  | 0x30 => some (.openCursor form (fieldOf 8 0 1 a) (fieldOf 24 1 3 a) (fieldOf 40 4 5 a)
      (fieldOf 24 9 3 a) (fieldOf 8 12 1 a) (fieldOf 8 13 1 a) (fieldOf 16 14 2 a))
  | 0x31 => some (.seek form (fieldOf 8 0 1 a) (fieldOf 8 1 1 a) (fieldOf 40 2 5 a))
  | 0x32 => some (.setLoop form (fieldOf 8 0 1 a) (fieldOf 40 1 5 a) (fieldOf 40 6 5 a))
  | 0x33 => some (.clearLoop form (fieldOf 8 0 1 a))
  | 0x34 => some (.fetch form (fieldOf 8 0 1 a))
  | 0x35 => some (.closeCursor form (fieldOf 8 0 1 a))
  | 0x36 => some (.readCursor form (fieldOf 8 0 1 a))
  | 0x40 => some (.reportFault form (fieldOf 8 0 1 a))
  | 0x41 => some (.probeResult form (fieldOf 8 0 1 a) (fieldOf 8 1 1 a))
  | 0x42 => some (.probeVolume form (fieldOf 8 0 1 a))
  | 0x43 => some (.failVolume form (fieldOf 8 0 1 a))
  | 0x44 => some (.restoreVolume form (fieldOf 8 0 1 a))
  | 0x45 => some (.readVolumes form (fieldOf 8 0 1 a) (fieldOf 8 1 1 a))
  | 0x50 => some (.armNotices form)
  | 0x51 => some (.takeNotices form)
  | 0x52 => some (.enableNotices form (fieldOf 16 0 2 a) (fieldOf 16 2 2 a))
  | 0x60 => some (.setSetting form (fieldOf 8 0 1 a) (fieldOf 8 1 1 a) (fieldOf 32 2 4 a))
  | 0x61 => some (.readSetting form (fieldOf 8 0 1 a) (fieldOf 8 1 1 a))
  | 0x62 => some (.storeSettings form)
  | 0x70 => some (.readStatus form)
  | 0x71 => some (.readIdentity form)
  | 0x72 => some (.clearCondition form)
  | 0x7F => some (.reset form)
  | _ => none

/-- The command a frame's bytes bring to its last argument byte; `none` while bytes are still to come.
Bytes after the last expected one are not read (R186), and a frame whose code is unknown reads no byte
after it (R184). -/
def decodeFrame (bytes : List Byte) : Option Instr :=
  match bytes with
  | [] => none
  | code :: rest =>
    if knownCode code then
      match rest with
      | [] => none
      | form :: args =>
        match argumentLength code args with
        | none => none
        | some n =>
          if n ≤ args.length then commandOf code form (args.take n) else none
    else some (.unknownCommand code)

/-- The argument bytes after the form byte of a command (R211). -/
def Instr.arguments : Instr → List Byte
  | .readItem _ a => bytesOf 3 a.toNat
  | .readSegments _ a first maximum => bytesOf 3 a.toNat ++ [first, maximum]
  | .enumerate _ start mask maximum => bytesOf 3 start.toNat ++ [mask, maximum]
  | .findCarrier _ c k side track a maximum =>
      bytesOf 4 c.toNat ++ [k, side, track] ++ bytesOf 3 a.toNat ++ [maximum]
  | .locate _ a position clearance => bytesOf 3 a.toNat ++ bytesOf 5 position.toNat ++ [clearance]
  | .writeItem _ header segments => header.bytes ++ segments.flatMap WireSegment.bytes
  | .amendSegments _ a first k m run =>
      bytesOf 3 a.toNat ++ [first, k, m] ++ run.flatMap WireSegment.bytes
  | .setItemFields _ a fields => bytesOf 3 a.toNat ++ fields.bytes
  | .certifyItem _ a => bytesOf 3 a.toNat
  | .retireItem _ a successor => bytesOf 3 a.toNat ++ bytesOf 3 successor.toNat
  | .purgeItem _ a => bytesOf 3 a.toNat
  | .cancelPending _ a => bytesOf 3 a.toNat
  | .openCursor _ cursor a position chunk clearance preference trim =>
      [cursor] ++ bytesOf 3 a.toNat ++ bytesOf 5 position.toNat ++ bytesOf 3 chunk.toNat
        ++ [clearance, preference] ++ bytesOf 2 trim.toNat
  | .seek _ cursor kind value => [cursor, kind] ++ bytesOf 5 value.toNat
  | .setLoop _ cursor start length => [cursor] ++ bytesOf 5 start.toNat ++ bytesOf 5 length.toNat
  | .clearLoop _ cursor | .fetch _ cursor | .closeCursor _ cursor | .readCursor _ cursor => [cursor]
  | .reportFault _ volume | .probeVolume _ volume | .failVolume _ volume
  | .restoreVolume _ volume => [volume]
  | .probeResult _ volume result => [volume, result]
  | .readVolumes _ first maximum => [first, maximum]
  | .enableNotices _ set clear => bytesOf 2 set.toNat ++ bytesOf 2 clear.toNat
  | .setSetting _ number volume value => [number, volume] ++ bytesOf 4 value.toNat
  | .readSetting _ number volume => [number, volume]
  | .clearHoldings _ | .storeSettings _ | .readPending _ | .freeze _ | .thaw _ | .armNotices _
  | .takeNotices _ | .readStatus _ | .readIdentity _ | .clearCondition _ | .reset _
  | .unknownCommand _ | .frameOpen | .frameEnd .. | .hardReset .. | .resetNRelease | .scanComplete
  | .commitComplete | .commitStoreFault | .takeReadyEntry | .timeBaseTick | .tfwinExpiry ..
  | .tpwaitExpiry .. | .tptoExpiry .. | .tstableExpiry .. | .stageReached .. => []

/-- The form byte of a host command (R209). -/
def Instr.form : Instr → Option Byte
  | .readItem f .. | .readSegments f .. | .enumerate f .. | .findCarrier f .. | .locate f ..
  | .writeItem f .. | .amendSegments f .. | .setItemFields f .. | .certifyItem f ..
  | .retireItem f .. | .purgeItem f .. | .clearHoldings f | .storeSettings f
  | .cancelPending f .. | .readPending f | .freeze f | .thaw f | .openCursor f .. | .seek f ..
  | .setLoop f .. | .clearLoop f .. | .fetch f .. | .closeCursor f .. | .readCursor f ..
  | .reportFault f .. | .probeResult f .. | .probeVolume f .. | .failVolume f ..
  | .restoreVolume f .. | .readVolumes f .. | .armNotices f | .takeNotices f
  | .enableNotices f .. | .setSetting f .. | .readSetting f .. | .readStatus f | .readIdentity f
  | .clearCondition f | .reset f => some f
  | .unknownCommand _ | .frameOpen | .frameEnd .. | .hardReset .. | .resetNRelease | .scanComplete
  | .commitComplete | .commitStoreFault | .takeReadyEntry | .timeBaseTick | .tfwinExpiry ..
  | .tpwaitExpiry .. | .tptoExpiry .. | .tstableExpiry .. | .stageReached .. => none

/-- The bytes a frame has brought when the command takes effect: the code byte, the form byte and the
arguments (R180, R181). An event of the part has none. -/
def Instr.frameBytes (i : Instr) : List Byte :=
  i.code.toList ++ i.form.toList ++ i.arguments

/-- SCK clocks one byte takes after the code byte, on one, two or four lanes (R180). -/
def clocksPerByte (lanes : Nat) : Nat := 8 / lanes

/-- Bit `i` of a byte on `lane`, as one clock carries it. -/
def laneBit (b : Byte) (i lane : Nat) : Lanes :=
  if b.getLsbD i then BitVec.twoPow 4 lane else 0#4

/-- The clocks that carry one byte on `lanes` lanes: the most significant bits first, and on one clock
the higher-numbered lane carries the more significant bit (R180). -/
def clocksOfByte (lanes : Nat) (b : Byte) : List Lanes :=
  match lanes with
  | 2 => (List.range 4).map fun k => laneBit b (7 - 2 * k) 1 ||| laneBit b (6 - 2 * k) 0
  | 4 => (List.range 2).map fun k => laneBit b (7 - 4 * k) 3 ||| laneBit b (6 - 4 * k) 2
      ||| laneBit b (5 - 4 * k) 1 ||| laneBit b (4 - 4 * k) 0
  | _ => (List.range 8).map fun k => laneBit b (7 - k) 0

/-- The number whose bits one clock moves, the higher-numbered lane first. -/
def clockValue (lanes : Nat) (x : Lanes) : Nat :=
  match lanes with
  | 2 => x.toNat % 4
  | 4 => x.toNat
  | _ => x.toNat % 2

/-- The byte that the clocks of one byte time carry on `lanes` lanes (R180). -/
def byteOfClocks (lanes : Nat) (clocks : List Lanes) : Byte :=
  BitVec.ofNat 8 (clocks.foldl
    (fun acc x => acc * (match lanes with | 2 => 4 | 4 => 16 | _ => 2) + clockValue lanes x) 0)

/-- All clocks of a frame up to the clock that completes the command: the code byte on D0 alone and
the rest on the live lane count (R180). -/
def Instr.frameClocks (lanes : Nat) (i : Instr) : List Lanes :=
  (i.code.toList).flatMap (clocksOfByte 1)
    ++ (i.form.toList ++ i.arguments).flatMap (clocksOfByte lanes)

/-- The whole bytes that clocks carry on `lanes` lanes, one byte time after another. A last byte of which
only some clocks have come is discarded (R180). -/
def bytesOfClocks (lanes : Nat) (clocks : List Lanes) : List Byte :=
  (List.range (clocks.length / clocksPerByte lanes)).map fun k =>
    byteOfClocks lanes ((clocks.drop (k * clocksPerByte lanes)).take (clocksPerByte lanes))

/-- The bytes of a frame whose clocks since the fall of SEL are `sampled`: the code byte on D0 alone, and
the form byte and the arguments on the live lane count (R180). -/
def frameBytesOf (lanes : Nat) (sampled : List Lanes) : List Byte :=
  if sampled.length < 8 then []
  else byteOfClocks 1 (sampled.take 8) :: bytesOfClocks lanes (sampled.drop 8)

/-- The command that a frame's clocks bring on the live lane count (R180, R181). -/
def decodeClocks (lanes : Nat) (sampled : List Lanes) : Option Instr :=
  decodeFrame (frameBytesOf lanes sampled)

/-- The lanes that a live lane count uses (R180). -/
def lanesUsed (lanes : Nat) : Lanes :=
  match lanes with
  | 2 => 0b0011#4
  | 4 => 0b1111#4
  | _ => 0b0001#4

/-- What the part puts on the lanes at one clock: the lanes it drives, and their levels. The level of a
lane it does not drive is the host's, and reads 0 here (R180, R182). -/
structure DrivenLanes where
  driven : Lanes
  level : Lanes
  deriving DecidableEq, Repr

/-- No lane driven. -/
def DrivenLanes.released : DrivenLanes where
  driven := 0#4
  level := 0#4

/-- The command a table word spells. The rows of spec/opcode_table.json give no bits, so no word
spells one. -/
def decodeTableWord (_nbits _w : Nat) : Option Instr := none

end Sys2Proof
end

