-- ==== Sys2Proof/Config.lean ====
section
/-! DEFINITION. The capacities the part is built with, the numeric ranges its rules share, and the one
value the manual leaves open. -/

namespace Sys2Proof.Config

/-- Item slots of the holdings store (R10). -/
abbrev slotCount : Nat := 16384
/-- Places of the segment pool (R34). -/
abbrev poolSize : Nat := 131072
/-- Cursors of the cursor table (R80). -/
abbrev cursorCount : Nat := 16
/-- Frames a path may hold (R62). -/
abbrev pathDepth : Nat := 4
/-- Successor links followed in one push (R66). -/
abbrev linkLimit : Nat := 4
/-- Volumes of the volume table (R108). -/
abbrev volumeCount : Nat := 64
/-- Entries of the deferral queue (R158). -/
abbrev queueSize : Nat := 8
/-- Segments an item may hold (R28). -/
abbrev segmentLimit : Nat := 64
/-- The largest duration, position and offset: 2^36 - 1 microseconds (R1, R41). -/
abbrev maxPosition : Nat := 68719476735
/-- The bound no byte of a segment's frames may reach: 2^48 (R25). -/
abbrev byteLimit : Nat := 281474976710656
/-- The largest stored sample count: 2^47 (R23). -/
abbrev maxSampleCount : Nat := 140737488355328
/-- The shortest chunk and the shortest loop, in microseconds (R59, R80). -/
abbrev minSpan : Nat := 10000
/-- The largest chunk, in microseconds (R80). -/
abbrev maxChunk : Nat := 2000000
/-- The age at which a deferral entry stops counting (R165). -/
abbrev maxAge : Nat := 4294967295
/-- The least trim and delivered gain, in tenths of a decibel (R1, R53). -/
abbrev minGain : Int := -600
/-- The greatest trim and delivered gain, in tenths of a decibel (R1, R53). -/
abbrev maxGain : Int := 120

/-- UNVERIFIED, a free value: the revision in the last-commit record of a change that fails where no
record stands, which is the create of R146. R147 gives "the record's revision as it stands" and there
is no record. The argument is the machine's count of such values. Log entry 10; safe, since nothing
constrains it. -/
opaque revisionOfNoRecord : Nat → BitVec 16

end Sys2Proof.Config
end

