-- ==== Sys2Proof/Machine/State.lean ====
section
/-! DEFINITION. The state of the part, block by block, as plain data: every register, record, table,
queue, flag and pin the manual names, the factory settings, and the state after reset. -/

namespace Sys2Proof.Machine

/-! ### The holdings store -/

/-- R6. -/
inductive RecordState where
  | active | certified | withdrawn
  deriving DecidableEq, Repr

/-- R1. -/
inductive CarrierKind where
  | openReel | cassette | wire | lacquerDisc | shellacDisc | vinylDisc | other
  deriving DecidableEq, Repr

/-- Where a TRANSFER segment's frames are stored (R25). -/
structure Placement where
  volume : Fin 64
  file : Nat
  base : Nat
  deriving DecidableEq, Repr

/-- The fields a TRANSFER segment has beside its trim (R23, R24). -/
structure Transfer where
  rate : Nat
  channels : Nat
  width : Nat
  nominal : Nat
  speed : Nat
  count : Nat
  primary : Placement
  secondary : Option Placement
  deriving DecidableEq, Repr

/-- A segment's kind with the fields of that kind (R23, R26, R27). -/
inductive SegmentBody where
  | transfer (trim : Int) (data : Transfer)
  | reference (trim : Int) (target offset : Nat)
  | lacuna
  deriving DecidableEq, Repr

/-- A segment of an item, covering `[start, start + length)` of its carrier time (R23). -/
structure Segment where
  start : Nat
  length : Nat
  body : SegmentBody
  deriving DecidableEq, Repr

/-- The stored fields of an item record (R1). The use count and the pending field are volatile and
stand in the catalogue index. -/
structure ItemRecord where
  accession : Nat
  state : RecordState
  carrierKind : CarrierKind
  carrierId : Nat
  side : Nat
  track : Nat
  duration : Nat
  trim : Int
  restriction : Nat
  grade : Nat
  successor : Option Nat
  revision : BitVec 16
  segments : List Segment
  deriving DecidableEq, Repr

/-! ### The settings -/

/-- The actions of escalation, from weakest to strongest (R166). -/
inductive Action where
  | none | notify | yield | detach
  deriving DecidableEq, Repr

/-- The three policy settings of one volume (R108). -/
structure VolumePolicy where
  registered : Bool
  autoProbe : Bool
  autoReturn : Bool
  deriving DecidableEq, Repr

/-- One value for every setting of R204. -/
structure Settings where
  linkLanes : Nat
  defaultChunk : Nat
  protectionLow : Nat
  protectionHigh : Nat
  protectionInvert : Bool
  protectionEnabled : Bool
  tHold1 : Nat
  act1 : Action
  tHold2 : Nat
  act2 : Action
  tHold3 : Nat
  act3 : Action
  faultThreshold : Nat
  tFwin : Nat
  tPwait : Nat
  tPto : Nat
  tStable : Nat
  policies : Table VolumePolicy 64
  noticeEnables : BitVec 10
  deriving DecidableEq, Repr

/-- The factory values of R204. -/
def Settings.factory : Settings where
  linkLanes := 1
  defaultChunk := 100000
  protectionLow := 0
  protectionHigh := 0
  protectionInvert := false
  protectionEnabled := false
  tHold1 := 5000
  act1 := .notify
  tHold2 := 30000
  act2 := .yield
  tHold3 := 120000
  act3 := .none
  faultThreshold := 3
  tFwin := 5000
  tPwait := 30000
  tPto := 10000
  tStable := 60000
  policies := Table.fill 64 { registered := false, autoProbe := true, autoReturn := true }
  noticeEnables := 0x3FF#10

/-- What the holdings store keeps across power loss: the records, in ascending accession, and the
stored settings, present for every setting or for none (R11, R19, R204). -/
structure Store where
  records : List ItemRecord
  settings : Option Settings
  deriving DecidableEq, Repr

/-- A store holding no change under a closing mark (R19). -/
def Store.blank : Store where
  records := []
  settings := none

/-! ### The catalogue index -/

/-- The volatile fields the catalogue index holds beside a record (R1, R4, R13). -/
structure IndexEntry where
  accession : Nat
  useCount : Nat
  pending : Bool
  deriving DecidableEq, Repr

/-- A key of the carrier index (R14). -/
structure CarrierKey where
  carrierId : Nat
  side : Nat
  track : Nat
  accession : Nat
  deriving DecidableEq, Repr

/-- The accession index, the carrier index, and the sizes of the free-slot and free-segment lists
(R10, R13, R14, R34). Slots and pool places are counted, not numbered: log entry 8. -/
structure Index where
  entries : List IndexEntry
  carriers : List CarrierKey
  vacantSlots : Nat
  freeSegments : Nat
  deriving DecidableEq, Repr

/-! ### The resolution unit -/

/-- R55. -/
inductive Condition where
  | none | below | within | above | gap
  deriving DecidableEq, Repr

/-- The condition field and the four sticky flags (R55). -/
structure Resolution where
  condition : Condition
  positionClamped : Bool
  indexClamped : Bool
  gainHigh : Bool
  gainLow : Bool
  deriving DecidableEq, Repr

/-- R56. -/
def Resolution.clear : Resolution where
  condition := .none
  positionClamped := false
  indexClamped := false
  gainHigh := false
  gainLow := false

/-! ### The cursor table -/

/-- R61. -/
structure PathFrame where
  accession : Nat
  revisionSeen : BitVec 16
  segment : Nat
  displacement : Int
  viaSuccessor : Bool
  deriving DecidableEq, Repr

/-- R68. -/
inductive FaultCode where
  | depth | missingTarget | withdrawnTarget | successorChain | restrictedTarget
  deriving DecidableEq, Repr

/-- R81. -/
inductive CursorState where
  | closed | open | stalled | yielding | ended | detached | faulted
  deriving DecidableEq, Repr

/-- R80. -/
inductive CopyPreference where
  | primaryFirst | secondaryFirst | primaryOnly | secondaryOnly
  deriving DecidableEq, Repr

/-- The two copies of a TRANSFER segment. -/
inductive Copy where
  | primary | secondary
  deriving DecidableEq, Repr

/-- A loop region `[start, stop)` of a cursor's top item (R59). -/
structure LoopRegion where
  start : Nat
  stop : Nat
  deriving DecidableEq, Repr

/-- A cursor context (R80). The path's top frame comes first. -/
structure Cursor where
  state : CursorState
  top : Nat
  position : Nat
  chunk : Nat
  clearance : Nat
  preference : CopyPreference
  trim : Int
  loop : Option LoopRegion
  path : List PathFrame
  lastCopy : Option Copy
  sequence : BitVec 16
  yieldFlag : Bool
  fault : Option FaultCode
  pendingWrap : Bool
  clampNote : Bool
  deriving DecidableEq, Repr

/-- The CLOSED value of every field of R80. -/
def Cursor.closed : Cursor where
  state := .closed
  top := 0
  position := 0
  chunk := 0
  clearance := 0
  preference := .primaryFirst
  trim := 0
  loop := none
  path := []
  lastCopy := none
  sequence := 0#16
  yieldFlag := false
  fault := none
  pendingWrap := false
  clampNote := false

/-! ### The volume monitor -/

/-- R108. -/
inductive Health where
  | unregistered | online | failed | probing | settling
  deriving DecidableEq, Repr

/-- The intervals a volume's timer may run (R108). -/
inductive Interval where
  | tFwin | tPwait | tPto | tStable
  deriving DecidableEq, Repr

/-- A volume's timer (R110). A timer that runs with no time remaining stands due: its expiry has not
yet been taken (log entry 5). -/
inductive Timer where
  | idle
  | running (interval : Interval) (remaining : Nat)
  deriving DecidableEq, Repr

/-- The volatile fields of a volume entry (R108); its policy fields are settings. -/
structure Volume where
  health : Health
  faultCount : Nat
  timer : Timer
  deriving DecidableEq, Repr

/-- A volume entry as a reset leaves it (R126). -/
def Volume.afterReset (policy : VolumePolicy) : Volume where
  health := if policy.registered then .online else .unregistered
  faultCount := 0
  timer := .idle

/-! ### The commit engine and the deferral queue -/

/-- The change kinds of R133. -/
inductive ChangeKind where
  | writeItem | amendSegments | setItemFields | certifyItem | retireItem | purgeItem
  | clearHoldings | storeSettings
  deriving DecidableEq, Repr

/-- A change with its arguments (R133), as its command carried them. STORE SETTINGS carries the
snapshot of the live settings taken at its start (R142). -/
inductive Change where
  | writeItem (header : WireHeader) (segments : List WireSegment)
  | amendSegments (accession : Nat) (first oldCount newCount : Nat) (run : List WireSegment)
  | setItemFields (accession : Nat) (fields : WireFields)
  | certifyItem (accession : Nat)
  | retireItem (accession successor : Nat)
  | purgeItem (accession : Nat)
  | clearHoldings
  | storeSettings (snapshot : Settings)
  deriving DecidableEq, Repr

/-- R132. -/
inductive Source where
  | direct | queue
  deriving DecidableEq, Repr

/-- The change in flight (R132). -/
structure InFlight where
  change : Change
  source : Source
  provisionalSlots : Nat
  provisionalSegments : Nat
  deriving DecidableEq, Repr

/-- R147. -/
inductive CommitOutcome where
  | done | noSpace | protection | successorInvalid | storeFault
  deriving DecidableEq, Repr

/-- R147. -/
structure LastCommit where
  accession : Nat
  kind : ChangeKind
  outcome : CommitOutcome
  revision : BitVec 16
  deriving DecidableEq, Repr

/-- The commit engine (R132). It is COMMITTING while a change is in flight and IDLE otherwise. -/
structure Engine where
  inFlight : Option InFlight
  frozen : Bool
  lastCommit : Option LastCommit
  deriving DecidableEq, Repr

/-- R157. -/
def Engine.afterReset : Engine where
  inFlight := none
  frozen := false
  lastCommit := none

/-- R161. -/
inductive EntryState where
  | waiting | ready | committing
  deriving DecidableEq, Repr

/-- A deferral entry (R158). The payload is the deferred change with its arguments as received, field
by field (log entry 21). -/
structure Entry where
  accession : Nat
  payload : Change
  state : EntryState
  age : Nat
  stage : Nat
  deriving DecidableEq, Repr

/-! ### The notice unit -/

/-- The pending set, ARMED and the line latch (R194, R197). -/
structure Notices where
  commitDone : Bool
  commitFailed : Bool
  changeStage : Bool
  started : Bool
  cursorStalled : BitVec 16
  cursorDetached : BitVec 16
  cursorFaulted : BitVec 16
  volumeFailed : BitVec 64
  volumeProbeRequest : BitVec 64
  volumeReturned : BitVec 64
  armed : Bool
  latched : Bool
  deriving DecidableEq, Repr

/-- R201. -/
def Notices.afterReset : Notices where
  commitDone := false
  commitFailed := false
  changeStage := false
  started := false
  cursorStalled := 0#16
  cursorDetached := 0#16
  cursorFaulted := 0#16
  volumeFailed := 0#64
  volumeProbeRequest := 0#64
  volumeReturned := 0#64
  armed := false
  latched := false

/-! ### The link controller and the pins -/

/-- R179. -/
inductive Phase where
  | code | arguments | turnaround | response | discard
  deriving DecidableEq, Repr

/-- The frame in progress (R179). The response is empty until the command has taken effect. -/
structure Frame where
  phase : Phase
  code : Option Byte
  received : List Byte
  response : List Byte
  deriving DecidableEq, Repr

/-- A frame that has just opened (R180). -/
def Frame.opened : Frame where
  phase := .code
  code := none
  received := []
  response := []

/-- The frame a reset leaves when it finds select low (R179). -/
def Frame.discarded : Frame where
  phase := .discard
  code := none
  received := []
  response := []

/-- R179. -/
inductive LinkResult where
  | none | complete | truncated | cutShort | unknownCode
  deriving DecidableEq, Repr

/-- The link controller (R179), with the lane count the link runs on (R187) and the soft reset a RESET
has ordered for the end of its frame (R192). -/
structure Link where
  frame : Option Frame
  lanes : Nat
  lastResult : LinkResult
  resetOrdered : Bool
  deriving DecidableEq, Repr

/-- The input pins as they stand: select low, and RESET_N low or the supplies down (R179, R191). -/
structure Pins where
  selectLow : Bool
  held : Bool
  deriving DecidableEq, Repr

/-! ### The whole part -/

/-- The state of the part, and the model's queue of commands that wait. -/
structure State where
  pending : List Instr
  pins : Pins
  link : Link
  starting : Bool
  resetPending : Bool
  store : Store
  index : Index
  resolution : Resolution
  cursors : Table Cursor 16
  volumes : Table Volume 64
  engine : Engine
  queue : List Entry
  notices : Notices
  settings : Settings
  milliseconds : Nat
  openValues : Nat
  deriving DecidableEq, Repr

/-- Why the part stops. The manual names no event that stops it: a refused command is answered, and
every failure is a state it goes on from. There is no constructor, so no meaning raises a fault
(log entry 25, safe). -/
inductive Fault where
  deriving DecidableEq, Repr

/-- Why a command has no meaning here. -/
inductive Refusal where
  /-- Raised by an arm of `exec` whose command has no meaning yet. Safe: the model stops. No arm raises
  it: every row of the table is modelled. -/
  | notModelled (mnemonic : String)
  deriving DecidableEq, Repr

/-! ### One update for each field -/

def State.withPending (s : State) (x : List Instr) : State := { s with pending := x }
def State.withPins (s : State) (x : Pins) : State := { s with pins := x }
def State.withLink (s : State) (x : Link) : State := { s with link := x }
def State.withStarting (s : State) (x : Bool) : State := { s with starting := x }
def State.withResetPending (s : State) (x : Bool) : State := { s with resetPending := x }
def State.withStore (s : State) (x : Store) : State := { s with store := x }
def State.withIndex (s : State) (x : Index) : State := { s with index := x }
def State.withResolution (s : State) (x : Resolution) : State := { s with resolution := x }
def State.withCursors (s : State) (x : Table Cursor 16) : State := { s with cursors := x }
def State.withVolumes (s : State) (x : Table Volume 64) : State := { s with volumes := x }
def State.withEngine (s : State) (x : Engine) : State := { s with engine := x }
def State.withQueue (s : State) (x : List Entry) : State := { s with queue := x }
def State.withNotices (s : State) (x : Notices) : State := { s with notices := x }
def State.withSettings (s : State) (x : Settings) : State := { s with settings := x }
def State.withMilliseconds (s : State) (x : Nat) : State := { s with milliseconds := x }
def State.withOpenValues (s : State) (x : Nat) : State := { s with openValues := x }

/-! ### Reset -/

/-- The catalogue index between a reset and the completion of the scan: no entry, and the slots and
places the store leaves vacant and free (R22, R38, log entry 9). -/
def Index.beforeScan (store : Store) : Index where
  entries := []
  carriers := []
  vacantSlots := Config.slotCount - store.records.length
  freeSegments := Config.poolSize - (store.records.map (·.segments.length)).sum

/-- The part as any reset leaves it, over a store, with select low or high: STARTING, every block at
its reset state, the live settings taken from the stored ones or the factory values (R22, R56, R79,
R107, R126, R157, R178, R179, R201, R208). -/
def State.startUp (pending : List Instr) (selectLow : Bool) (store : Store) (openValues : Nat) :
    State where
  pending := pending
  pins := { selectLow := selectLow, held := false }
  link := {
    frame := if selectLow then some Frame.discarded else none
    lanes := (store.settings.getD Settings.factory).linkLanes
    lastResult := .none
    resetOrdered := false }
  starting := true
  resetPending := false
  store := store
  index := Index.beforeScan store
  resolution := Resolution.clear
  cursors := Table.fill 16 Cursor.closed
  volumes := (store.settings.getD Settings.factory).policies.map Volume.afterReset
  engine := Engine.afterReset
  queue := []
  notices := Notices.afterReset
  settings := store.settings.getD Settings.factory
  milliseconds := 0
  openValues := openValues

/-- The part right after power-on with a blank store and select high: STARTING, with the start-up scan
begun (R19, R191). DESIGN CHOICE for the blank store, the level of select and the released RESET_N: log
entry 3. -/
def State.reset : State :=
  State.startUp [] false Store.blank 0

end Sys2Proof.Machine
end

