-- ==== Sys2Proof/Machine/Codes.lean ====
section
/-! DEFINITION. The code values of R210, the result codes and reports of R209, and a response as the
host reads it from the link. -/

namespace Sys2Proof.Machine

/-- The result codes (R210). TRUNCATED is in the list and is never sent. -/
inductive ResultCode where
  | ok | accepted | deferred | busy | notReady | unknownCommand | truncated
  | malformed | incomplete | notFound | exists_ | withdrawn | locked | underProtection | frozen
  | inUse | queueFull | pendingExists | noSpace
  | range | restricted | cursorState | volumeState | volumeUnknown
  deriving DecidableEq, Repr

def ResultCode.byte : ResultCode → Byte
  | .ok => 0x00
  | .accepted => 0x01
  | .deferred => 0x02
  | .busy => 0x08
  | .notReady => 0x09
  | .unknownCommand => 0x0A
  | .truncated => 0x0B
  | .malformed => 0x10
  | .incomplete => 0x11
  | .notFound => 0x12
  | .exists_ => 0x13
  | .withdrawn => 0x14
  | .locked => 0x15
  | .underProtection => 0x16
  | .frozen => 0x17
  | .inUse => 0x18
  | .queueFull => 0x19
  | .pendingExists => 0x1A
  | .noSpace => 0x1B
  | .range => 0x20
  | .restricted => 0x21
  | .cursorState => 0x22
  | .volumeState => 0x28
  | .volumeUnknown => 0x29

/-- The answer to a command: its result code and the bytes that follow it (R182). -/
structure Response where
  result : ResultCode
  data : List Byte
  deriving DecidableEq, Repr

/-- The response as the part drives it (R182). -/
def Response.bytes (r : Response) : List Byte :=
  r.result.byte :: r.data

/-- A response of the result code alone. -/
def Response.bare (c : ResultCode) : Response := ⟨c, []⟩

/-- The content and incompleteness reasons (R210). -/
inductive Reason where
  | headerField | segmentCount | kind | start | length | trim | rate | frame | speed | count
  | placement | placementRange | target | offset | end_ | amendRange | amendSpan | amendTotal
  | successor | arguments | grade | reference | noSecondary
  deriving DecidableEq, Repr

def Reason.byte : Reason → Byte
  | .headerField => 0x01
  | .segmentCount => 0x02
  | .kind => 0x03
  | .start => 0x04
  | .length => 0x05
  | .trim => 0x06
  | .rate => 0x07
  | .frame => 0x08
  | .speed => 0x09
  | .count => 0x0A
  | .placement => 0x0B
  | .placementRange => 0x0C
  | .target => 0x0D
  | .offset => 0x0E
  | .end_ => 0x0F
  | .amendRange => 0x10
  | .amendSpan => 0x11
  | .amendTotal => 0x12
  | .successor => 0x13
  | .arguments => 0x14
  | .grade => 0x20
  | .reference => 0x21
  | .noSecondary => 0x22

/-- Where a report points (R209). -/
inductive Place where
  | segment (position : Nat)
  | header
  | arguments
  deriving DecidableEq, Repr

def Place.byte : Place → Byte
  | .segment n => BitVec.ofNat 8 n
  | .header => 0x40
  | .arguments => 0x41

/-- A content fault or incompleteness report (R29, R138). -/
structure Report where
  reason : Reason
  place : Place
  deriving DecidableEq, Repr

def Report.bytes (r : Report) : List Byte := [r.reason.byte, r.place.byte]

/-- MALFORMED with the content fault report of a change command (R209). -/
def Response.malformed (r : Report) : Response := ⟨.malformed, r.bytes⟩

/-- MALFORMED of every other command: reason and position ARGUMENTS (R209). -/
def Response.malformedArguments : Response := .malformed ⟨.arguments, .arguments⟩

def yesNo (b : Bool) : Byte := if b then 1 else 0

def RecordState.byte : RecordState → Byte
  | .active => 1
  | .certified => 2
  | .withdrawn => 3

def CarrierKind.byte : CarrierKind → Byte
  | .openReel => 1
  | .cassette => 2
  | .wire => 3
  | .lacquerDisc => 4
  | .shellacDisc => 5
  | .vinylDisc => 6
  | .other => 7

/-- The carrier kind a byte names, if one of the seven. -/
def CarrierKind.ofByte (b : Byte) : Option CarrierKind :=
  match b.toNat with
  | 1 => some .openReel
  | 2 => some .cassette
  | 3 => some .wire
  | 4 => some .lacquerDisc
  | 5 => some .shellacDisc
  | 6 => some .vinylDisc
  | 7 => some .other
  | _ => none

def FaultCode.byte : FaultCode → Byte
  | .depth => 1
  | .missingTarget => 2
  | .withdrawnTarget => 3
  | .successorChain => 4
  | .restrictedTarget => 5

/-- A fault code, or 0 for none. -/
def faultByte : Option FaultCode → Byte
  | none => 0
  | some c => c.byte

def CommitOutcome.byte : CommitOutcome → Byte
  | .done => 1
  | .noSpace => 2
  | .protection => 3
  | .successorInvalid => 4
  | .storeFault => 5

def ChangeKind.byte : ChangeKind → Byte
  | .writeItem => 0x20
  | .amendSegments => 0x21
  | .setItemFields => 0x22
  | .certifyItem => 0x23
  | .retireItem => 0x24
  | .purgeItem => 0x25
  | .clearHoldings => 0x26
  | .storeSettings => 0x62

def EntryState.byte : EntryState → Byte
  | .waiting => 1
  | .ready => 2
  | .committing => 3

def Action.byte : Action → Byte
  | .none => 0
  | .notify => 1
  | .yield => 2
  | .detach => 3

/-- The action a setting's value names (R214). -/
def Action.ofCode : Nat → Option Action
  | 0 => some .none
  | 1 => some .notify
  | 2 => some .yield
  | 3 => some .detach
  | _ => Option.none

def CursorState.byte : CursorState → Byte
  | .closed => 0
  | .open => 1
  | .stalled => 2
  | .yielding => 3
  | .ended => 4
  | .detached => 5
  | .faulted => 6

def CopyPreference.byte : CopyPreference → Byte
  | .primaryFirst => 0
  | .secondaryFirst => 1
  | .primaryOnly => 2
  | .secondaryOnly => 3

def CopyPreference.ofByte (b : Byte) : Option CopyPreference :=
  match b.toNat with
  | 0 => some .primaryFirst
  | 1 => some .secondaryFirst
  | 2 => some .primaryOnly
  | 3 => some .secondaryOnly
  | _ => none

/-- A copy, or 0 for none. -/
def copyByte : Option Copy → Byte
  | none => 0
  | some .primary => 1
  | some .secondary => 2

/-- The kinds of a descriptor (R97). -/
inductive DescriptorKind where
  | audio | gap | unavailable | end_ | detached | faulted
  deriving DecidableEq, Repr

def DescriptorKind.byte : DescriptorKind → Byte
  | .audio => 1
  | .gap => 2
  | .unavailable => 3
  | .end_ => 4
  | .detached => 5
  | .faulted => 6

def Health.byte : Health → Byte
  | .unregistered => 0
  | .online => 1
  | .failed => 2
  | .probing => 3
  | .settling => 4

def Interval.byte : Interval → Byte
  | .tFwin => 1
  | .tPwait => 2
  | .tPto => 3
  | .tStable => 4

/-- The interval a timer runs, or 0 when it is idle. -/
def Timer.intervalByte : Timer → Byte
  | .idle => 0
  | .running i _ => i.byte

/-- The milliseconds a timer has still to run. -/
def Timer.remaining : Timer → Nat
  | .idle => 0
  | .running _ r => r

def Condition.byte : Condition → Byte
  | .none => 0
  | .below => 1
  | .within => 2
  | .above => 3
  | .gap => 4

def LinkResult.byte : LinkResult → Byte
  | .none => 0
  | .complete => 1
  | .truncated => 2
  | .cutShort => 3
  | .unknownCode => 4

/-- The FREEZE refusal causes (R210). -/
inductive FreezeCause where
  | none | engineBusy | resetPending
  deriving DecidableEq, Repr

def FreezeCause.byte : FreezeCause → Byte
  | .none => 0x00
  | .engineBusy => 0x01
  | .resetPending => 0x02

/-- The ten notice kinds (R194). -/
inductive NoticeKind where
  | commitDone | commitFailed | changeStage | cursorStalled | cursorDetached | cursorFaulted
  | volumeFailed | volumeProbeRequest | volumeReturned | started
  deriving DecidableEq, Repr

/-- The bit that numbers a notice kind (R210). -/
def NoticeKind.bit : NoticeKind → Nat
  | .commitDone => 0
  | .commitFailed => 1
  | .changeStage => 2
  | .cursorStalled => 3
  | .cursorDetached => 4
  | .cursorFaulted => 5
  | .volumeFailed => 6
  | .volumeProbeRequest => 7
  | .volumeReturned => 8
  | .started => 9

/-- Every notice kind, by its bit. -/
def NoticeKind.all : List NoticeKind :=
  [.commitDone, .commitFailed, .changeStage, .cursorStalled, .cursorDetached, .cursorFaulted,
   .volumeFailed, .volumeProbeRequest, .volumeReturned, .started]

end Sys2Proof.Machine
end

