-- ==== Sys2Proof/Machine/Operands.lean ====
section
/-! DEFINITION. What the operands of the commands mean: the two forms of the form byte, the records as
they stand on the link (R212), the seek kinds (R57, R211) and the loop and position bounds (R58, R59). -/

namespace Sys2Proof.Machine

/-- The REPORT form (R54, R209). -/
def reportForm (form : Byte) : Bool := form.getLsbD 0

/-- The STRICT form (R54, R209). -/
def strictForm (form : Byte) : Bool := form.getLsbD 1

/-- Whether a trim lies in -600 to +120 tenths of a decibel (R1, R23, R83). -/
def trimInRange (x : Int) : Bool := Config.minGain ≤ x ∧ x ≤ Config.maxGain

/-- A count argument of a lookup: 0 stands for the greatest count (R17, R18, R39, R125). -/
def countArgument (b : Byte) (greatest : Nat) : Nat :=
  if b.toNat = 0 then greatest else b.toNat

/-! ### Segments on the link -/

/-- Channels, in bits 7 to 4 of the frame-format byte (R212). -/
def wireChannels (g : WireSegment) : Nat := g.format.toNat / 16

/-- Sample width, in bits 3 to 0 of the frame-format byte (R212). -/
def wireWidth (g : WireSegment) : Nat := g.format.toNat % 16

/-- A REFERENCE segment's target offset, in bytes 17 to 21 (R212). -/
def wireTargetOffset (g : WireSegment) : Nat :=
  g.nominal.toNat * 256 ^ 3 + g.speed.toNat * 256 + g.count.toNat / 256 ^ 5

/-- The end of a segment's span. -/
def wireEnd (g : WireSegment) : Nat := g.start.toNat + g.length.toNat

/-- The primary placement (R25). The content check has held its volume to 0 to 63. -/
def wirePrimary (g : WireSegment) : Placement where
  volume := Fin.ofNat 64 g.primaryVolume.toNat
  file := g.primaryFile.toNat
  base := g.primaryBase.toNat

/-- The secondary placement, absent when its volume reads FFh (R212). -/
def wireSecondary (g : WireSegment) : Option Placement :=
  if g.secondaryVolume = 0xFF#8 then none
  else some {
    volume := Fin.ofNat 64 g.secondaryVolume.toNat
    file := g.secondaryFile.toNat
    base := g.secondaryBase.toNat }

/-- The segment that a checked wire segment installs (R23, R212). -/
def segmentOfWire (g : WireSegment) : Segment where
  start := g.start.toNat
  length := g.length.toNat
  body :=
    match g.kind.toNat with
    | 1 => .transfer g.trim.toInt {
        rate := g.rate.toNat
        channels := wireChannels g
        width := wireWidth g
        nominal := g.nominal.toNat
        speed := g.speed.toNat
        count := g.count.toNat
        primary := wirePrimary g
        secondary := wireSecondary g }
    | 2 => .reference g.trim.toInt g.rate.toNat (wireTargetOffset g)
    | _ => .lacuna

/-- A wire segment whose every byte but kind, start and length is 0. -/
def wireBlank (kind : Byte) (start length : Nat) : WireSegment where
  kind := kind
  format := 0
  trim := 0
  start := BitVec.ofNat 40 start
  length := BitVec.ofNat 40 length
  rate := 0
  nominal := 0
  speed := 0
  count := 0
  primaryVolume := 0
  primaryFile := 0
  primaryBase := 0
  secondaryVolume := 0
  secondaryFile := 0
  secondaryBase := 0
  reserved := 0

/-- A segment as READ SEGMENTS returns it: every place its kind does not use reads 0, and an absent
secondary placement is marked by volume FFh (R39, R212). -/
def wireOfSegment (g : Segment) : WireSegment :=
  match g.body with
  | .transfer trim t =>
    { wireBlank 1 g.start g.length with
      format := BitVec.ofNat 8 (t.channels * 16 + t.width)
      trim := BitVec.ofInt 16 trim
      rate := BitVec.ofNat 24 t.rate
      nominal := BitVec.ofNat 16 t.nominal
      speed := BitVec.ofNat 16 t.speed
      count := BitVec.ofNat 48 t.count
      primaryVolume := BitVec.ofNat 8 t.primary.volume.val
      primaryFile := BitVec.ofNat 24 t.primary.file
      primaryBase := BitVec.ofNat 48 t.primary.base
      secondaryVolume := match t.secondary with | none => 0xFF | some q => BitVec.ofNat 8 q.volume.val
      secondaryFile := match t.secondary with | none => 0 | some q => BitVec.ofNat 24 q.file
      secondaryBase := match t.secondary with | none => 0 | some q => BitVec.ofNat 48 q.base }
  | .reference trim target offset =>
    { wireBlank 2 g.start g.length with
      trim := BitVec.ofInt 16 trim
      rate := BitVec.ofNat 24 target
      nominal := BitVec.ofNat 16 (offset / 256 ^ 3)
      speed := BitVec.ofNat 16 (offset / 256)
      count := BitVec.ofNat 48 (offset % 256 * 256 ^ 5) }
  | .lacuna => wireBlank 3 g.start g.length

/-- A record's header as READ ITEM returns it (R16, R212). -/
def headerOfRecord (r : ItemRecord) (useCount : Nat) (pendingField : Bool) : WireHeader where
  accession := BitVec.ofNat 24 r.accession
  state := r.state.byte
  carrierKind := r.carrierKind.byte
  side := BitVec.ofNat 8 r.side
  track := BitVec.ofNat 8 r.track
  reserved7 := 0
  carrierId := BitVec.ofNat 32 r.carrierId
  duration := BitVec.ofNat 40 r.duration
  restriction := BitVec.ofNat 8 r.restriction
  grade := BitVec.ofNat 8 r.grade
  segmentCount := BitVec.ofNat 8 r.segments.length
  trim := BitVec.ofInt 16 r.trim
  successor := BitVec.ofNat 24 (r.successor.getD 0)
  reserved25 := 0
  revision := r.revision
  useCount := BitVec.ofNat 8 useCount
  pendingByte := yesNo pendingField
  reserved30 := 0

/-! ### Positions -/

/-- The target of a SEEK (R57, R211); `none` when the kind is none of the three or an ABSOLUTE value
lies above its range. -/
def seekTarget (kind : Byte) (value : BitVec 40) (position : Nat) : Option Int :=
  match kind.toNat with
  | 0 => if value.toNat ≤ Config.maxPosition then some value.toNat else none
  | 1 => some (position + (value.setWidth 32).toInt)
  | 2 => some (position + (value.setWidth 16).toInt * 1000000)
  | _ => none

/-- A target that has passed R58: the position it gives, whether it was clamped, and how it stands
against the item's bounds (R55). -/
structure Placing where
  position : Nat
  clamped : Bool
  condition : Condition
  deriving DecidableEq, Repr

/-- Where a target falls against a duration (R58): clamped in the plain form, and in the strict form
refused with the side on which it fell. -/
def placeTarget (strict : Bool) (target : Int) (duration : Nat) : Except Condition Placing :=
  if target < 0 then
    if strict then .error .below else .ok ⟨0, true, .below⟩
  else if (duration : Int) < target then
    if strict then .error .above else .ok ⟨duration, true, .above⟩
  else .ok ⟨target.toNat, false, if target = duration then .above else .within⟩

/-- A SET LOOP that has passed R59: the region and whether a bound was clamped. -/
structure LoopPlacing where
  region : LoopRegion
  clamped : Bool
  deriving DecidableEq, Repr

/-- The loop bounds of R59 against a duration; a refusal carries the condition R55 gives it. DESIGN CHOICE,
log entry 29: a strict SET LOOP that both reasons refuse is refused for the length or duration below
10,000, with NONE. -/
def placeLoop (strict : Bool) (start length duration : Nat) : Except Condition LoopPlacing :=
  if length < Config.minSpan ∨ duration < Config.minSpan then .error .none
  else if strict then
    if duration < start + length then .error .above else .ok ⟨⟨start, start + length⟩, false⟩
  else
    let low := min start (duration - Config.minSpan)
    .ok ⟨⟨low, min (low + length) duration⟩, decide (low ≠ start ∨ duration < low + length)⟩

end Sys2Proof.Machine
end

