-- ==== Sys2Proof/Machine/Flags.lean ====
section
/-! DEFINITION. The condition field and the sticky flags: what a reporting command leaves in them (R54,
R55), and the status word that shows them with the rest of the part's flags (R202, R214). -/

namespace Sys2Proof.Machine

/-- The sticky flags a command's answer calls for (R55). -/
structure Sticky where
  position : Bool
  index : Bool
  gainHigh : Bool
  gainLow : Bool
  deriving DecidableEq, Repr

def Sticky.none : Sticky := ⟨false, false, false, false⟩

/-- POSITION_CLAMPED alone, when a target was clamped. -/
def Sticky.ofPosition (clamped : Bool) : Sticky := ⟨clamped, false, false, false⟩

/-- The condition field replaced, and the sticky flags called for set beside those already set (R55). -/
def Resolution.note (r : Resolution) (c : Condition) (f : Sticky) : Resolution where
  condition := c
  positionClamped := r.positionClamped || f.position
  indexClamped := r.indexClamped || f.index
  gainHigh := r.gainHigh || f.gainHigh
  gainLow := r.gainLow || f.gainLow

/-- What a command with the given form byte leaves in the condition field: nothing without REPORT
(R54). -/
def State.noteCondition (s : State) (form : Byte) (c : Condition) (f : Sticky) : State :=
  if reportForm form then s.withResolution (s.resolution.note c f) else s

/-- The commit engine is COMMITTING (R132). -/
def State.committing (s : State) : Bool := s.engine.inFlight.isSome

/-- The number of READY entries (R159). -/
def State.readyCount (s : State) : Nat := s.queue.countP (fun e => e.state == .ready)

/-- A byte whose bits 0, 1, 2, ... are the given flags. -/
def flagByte (flags : List Bool) : Byte :=
  BitVec.ofNat 8 (flags.foldr (fun b acc => acc * 2 + if b then 1 else 0) 0)

/-- The eight bytes of the status word (R202, R214). -/
def State.statusWord (s : State) : List Byte :=
  [ flagByte [s.starting, s.committing, s.resetPending, s.engine.frozen, s.notices.armed,
      s.notices.latched],
    BitVec.ofNat 8 (s.queue.length * 16 + s.readyCount),
    s.resolution.condition.byte,
    flagByte [s.resolution.positionClamped, s.resolution.indexClamped, s.resolution.gainHigh,
      s.resolution.gainLow],
    s.link.lastResult.byte,
    (match s.engine.lastCommit with | none => 0 | some l => l.outcome.byte),
    0, 0 ]

end Sys2Proof.Machine
end

