-- ==== Sys2Proof/Machine/Ops.lean ====
section
/-! DEFINITION. The named operations over the state: raising notices, finding records, counting uses,
and moving deferral entries as counts fall and rise. -/

namespace Sys2Proof.Machine

/-! ### Notices -/

/-- A raise, with the cursor or volume it concerns (R194). -/
inductive Notice where
  | commitDone | commitFailed | changeStage | started
  | cursorStalled (cursor : Fin 16)
  | cursorDetached (cursor : Fin 16)
  | cursorFaulted (cursor : Fin 16)
  | volumeFailed (volume : Fin 64)
  | volumeProbeRequest (volume : Fin 64)
  | volumeReturned (volume : Fin 64)
  deriving DecidableEq, Repr

/-- The pending set with a raise recorded (R195). -/
def Notices.record (n : Notices) : Notice → Notices
  | .commitDone => { n with commitDone := true }
  | .commitFailed => { n with commitFailed := true }
  | .changeStage => { n with changeStage := true }
  | .started => { n with started := true }
  | .cursorStalled c => { n with cursorStalled := n.cursorStalled ||| BitVec.twoPow 16 c.val }
  | .cursorDetached c => { n with cursorDetached := n.cursorDetached ||| BitVec.twoPow 16 c.val }
  | .cursorFaulted c => { n with cursorFaulted := n.cursorFaulted ||| BitVec.twoPow 16 c.val }
  | .volumeFailed v => { n with volumeFailed := n.volumeFailed ||| BitVec.twoPow 64 v.val }
  | .volumeProbeRequest v =>
      { n with volumeProbeRequest := n.volumeProbeRequest ||| BitVec.twoPow 64 v.val }
  | .volumeReturned v => { n with volumeReturned := n.volumeReturned ||| BitVec.twoPow 64 v.val }

/-- Whether a kind is pending: a masked kind while its mask has a bit set (R194). -/
def Notices.isPending (n : Notices) : NoticeKind → Bool
  | .commitDone => n.commitDone
  | .commitFailed => n.commitFailed
  | .changeStage => n.changeStage
  | .cursorStalled => n.cursorStalled != 0#16
  | .cursorDetached => n.cursorDetached != 0#16
  | .cursorFaulted => n.cursorFaulted != 0#16
  | .volumeFailed => n.volumeFailed != 0#64
  | .volumeProbeRequest => n.volumeProbeRequest != 0#64
  | .volumeReturned => n.volumeReturned != 0#64
  | .started => n.started

/-- The pending kinds as a ten-bit mask (R210). -/
def Notices.kinds (n : Notices) : BitVec 10 :=
  NoticeKind.all.foldl (fun acc k => if n.isPending k then acc ||| BitVec.twoPow 10 k.bit else acc)
    0#10

/-- Whether some pending kind is also enabled (R197). -/
def Notices.enabledPending (n : Notices) (enables : BitVec 10) : Bool :=
  NoticeKind.all.any fun k => n.isPending k && enables.getLsbD k.bit

/-- The line latches, and ARMED clears, when the latch is LOW, ARMED is set and an enabled kind is
pending (R197). -/
def Notices.testLatch (n : Notices) (enables : BitVec 10) : Notices :=
  if !n.latched && n.armed && n.enabledPending enables then
    { n with latched := true, armed := false }
  else n

/-- The latch conditions tested against the live enables (R197). -/
def State.testLatch (s : State) : State :=
  s.withNotices (s.notices.testLatch s.settings.noticeEnables)

/-- A raise: recorded, and the latch conditions tested (R195, R197). -/
def State.raise (s : State) (x : Notice) : State :=
  s.withNotices ((s.notices.record x).testLatch s.settings.noticeEnables)

/-! ### Records -/

/-- The record at an accession, in a list of records. -/
def findRecord (records : List ItemRecord) (accession : Nat) : Option ItemRecord :=
  records.find? fun r => r.accession == accession

/-- The record at an accession, as it stands: the version in force (R12, R13). -/
def State.record? (s : State) (accession : Nat) : Option ItemRecord :=
  findRecord s.store.records accession

/-- The index entry of an accession. -/
def Index.entry? (ix : Index) (accession : Nat) : Option IndexEntry :=
  ix.entries.find? fun e => e.accession == accession

/-- The use count of an accession, 0 where no record stands (R4). -/
def Index.useCount (ix : Index) (accession : Nat) : Nat :=
  ((ix.entry? accession).map (·.useCount)).getD 0

/-- The pending field of an accession (R4). -/
def Index.isPending (ix : Index) (accession : Nat) : Bool :=
  ((ix.entry? accession).map (·.pending)).getD false

/-- The pending field of one accession written (R159). -/
def Index.setPending (ix : Index) (accession : Nat) (value : Bool) : Index :=
  { ix with
    entries := ix.entries.map fun e =>
      if e.accession = accession then { e with pending := value } else e }

/-- The order of carrier index keys: carrier id, then side, then track, then accession (R14). -/
def CarrierKey.before (a b : CarrierKey) : Bool :=
  a.carrierId < b.carrierId ||
    (a.carrierId == b.carrierId && (a.side < b.side ||
      (a.side == b.side && (a.track < b.track ||
        (a.track == b.track && a.accession < b.accession)))))

/-- A key put into its place in the carrier index. -/
def insertCarrier (k : CarrierKey) : List CarrierKey → List CarrierKey
  | [] => [k]
  | x :: rest => if k.before x then k :: x :: rest else x :: insertCarrier k rest

/-- A record's key in the carrier index (R14). -/
def ItemRecord.carrierKey (r : ItemRecord) : CarrierKey :=
  ⟨r.carrierId, r.side, r.track, r.accession⟩

/-- The carrier index of a catalogue: one key for each ACTIVE and each CERTIFIED record (R14). -/
def carriersOf (records : List ItemRecord) : List CarrierKey :=
  (records.filter fun r => r.state ≠ .withdrawn).foldr (fun r acc => insertCarrier r.carrierKey acc) []

/-- The accession index of a catalogue: one entry a record, each keeping the volatile fields it had and
a new record starting with use count 0 and pending no (R13, R144). -/
def entriesOf (old : Index) (records : List ItemRecord) : List IndexEntry :=
  records.map fun r => (old.entry? r.accession).getD ⟨r.accession, 0, false⟩

/-- A record put into its place in a catalogue, which is in ascending accession (R13). -/
def insertRecord (r : ItemRecord) : List ItemRecord → List ItemRecord
  | [] => [r]
  | x :: rest => if r.accession < x.accession then r :: x :: rest else x :: insertRecord r rest

/-- The record at an accession rewritten, every other record left as it is. -/
def modifyRecord (accession : Nat) (f : ItemRecord → ItemRecord) (records : List ItemRecord) :
    List ItemRecord :=
  records.map fun r => if r.accession = accession then f r else r

/-- The pool places that the records own (R34). -/
def segmentsOwned (records : List ItemRecord) : Nat :=
  (records.map (·.segments.length)).sum

/-! ### Cursors -/

/-- Whether a cursor's path holds a frame naming an item (R99). -/
def Cursor.names (c : Cursor) (accession : Nat) : Bool :=
  c.path.any fun f => f.accession == accession

/-- OPEN, or YIELDING when the yield flag is set (R81). -/
def Cursor.playing (c : Cursor) : CursorState :=
  if c.yieldFlag then .yielding else .open

/-- A yield request reaching a cursor (R99). -/
def Cursor.yielded (c : Cursor) : Cursor :=
  { c with
    yieldFlag := true
    state := if c.state = .open then .yielding else c.state }

/-- A detach reaching a cursor (R100). A DETACHED cursor holds no fault code: log entry 19. -/
def Cursor.detachedNow (c : Cursor) : Cursor :=
  { c with
    state := .detached, path := [], lastCopy := none, pendingWrap := false, fault := none }

/-- A fault reaching a cursor: the path is dropped, the top accession and position are kept (R68,
R96). -/
def Cursor.faultedWith (c : Cursor) (code : FaultCode) : Cursor :=
  { c with state := .faulted, path := [], lastCopy := none, fault := some code }

/-- The cursor a byte names, when it is 0 to 15 (R82). -/
def cursorOf (b : Byte) : Option (Fin 16) :=
  if h : b.toNat < 16 then some ⟨b.toNat, h⟩ else none

/-- The volume a byte names, when it is 0 to 63 (R114). -/
def volumeOf (b : Byte) : Option (Fin 64) :=
  if h : b.toNat < 64 then some ⟨b.toNat, h⟩ else none

/-- One cursor's context replaced. -/
def State.setCursor (s : State) (n : Fin 16) (c : Cursor) : State :=
  s.withCursors (s.cursors.set n c)

/-- One volume's entry replaced. -/
def State.setVolume (s : State) (v : Fin 64) (e : Volume) : State :=
  s.withVolumes (s.volumes.set v e)

/-! ### Use counts -/

/-- The number of path frames, over all cursors, that name an item (R4). -/
def framesNaming (cursors : Table Cursor 16) (accession : Nat) : Nat :=
  (cursors.list.map fun c => c.path.countP fun f => f.accession == accession).sum

/-- Every use count brought to the number of frames that name its record (R4, R71, R72). -/
def Index.counted (ix : Index) (cursors : Table Cursor 16) : Index :=
  { ix with entries := ix.entries.map fun e => { e with useCount := framesNaming cursors e.accession } }

/-- An entry following its item's use count: WAITING to READY at 0, READY to WAITING above 0, and
COMMITTING not moved (R161). -/
def Entry.follow (e : Entry) (count : Nat) : Entry :=
  match e.state with
  | .waiting => if count = 0 then { e with state := .ready } else e
  | .ready => if 0 < count then { e with state := .waiting } else e
  | .committing => e

/-- The use counts settle by the net change of a command's path work, and the deferral queue follows
them (R72, R161). -/
def State.settleCounts (s : State) : State :=
  (s.withIndex (s.index.counted s.cursors)).withQueue
    (s.queue.map fun e => e.follow (framesNaming s.cursors e.accession))

/-- The entries that settling returns from READY to WAITING (R161). -/
def State.reentering (s : State) : List Nat :=
  (s.queue.filter fun e => e.state == .ready && decide (0 < framesNaming s.cursors e.accession)).map
    (·.accession)

/-! ### The protection window -/

/-- Whether an accession is protected (R135). -/
def Settings.protects (st : Settings) (accession : Nat) : Bool :=
  st.protectionEnabled &&
    (if st.protectionInvert then
      decide (accession < st.protectionLow ∨ st.protectionHigh < accession)
    else decide (st.protectionLow ≤ accession ∧ accession ≤ st.protectionHigh))

end Sys2Proof.Machine
end

