-- ==== Sys2Proof/Machine/Positions.lean ====
section
/-! DEFINITION. Position arithmetic: the segment in use, stored indexes, byte offsets, gain, and copy
selection. All of it is exact integer arithmetic (R41). -/

namespace Sys2Proof.Machine

/-- Whether a segment's span holds an item-local position (R28). -/
def Segment.holds (g : Segment) (t : Int) : Bool :=
  decide ((g.start : Int) ≤ t ∧ t < (g.start + g.length : Nat))

/-- The list position of the segment that holds `t`, or the segment count when none does (R28, R61,
R67). -/
def segmentAt (segments : List Segment) (t : Int) : Nat :=
  segments.findIdx fun g => g.holds t

/-- A frame's item-local position when the cursor's position is `p` (R42). -/
def PathFrame.localAt (f : PathFrame) (p : Nat) : Int := p - f.displacement

/-- A frame's segment in use; none when the frame is at end (R61). -/
def PathFrame.segmentIn (f : PathFrame) (records : List ItemRecord) : Option Segment :=
  (findRecord records f.accession).bind fun r => r.segments[f.segment]?

/-- The bytes of one stored sample frame (R24). -/
def Transfer.frameBytes (t : Transfer) : Nat := t.channels * t.width

/-- `f(Δ)`: the stored index of a position within the segment, rounded down (R44). -/
def Transfer.index (t : Transfer) (delta : Nat) : Nat :=
  delta * t.rate * t.nominal / (t.speed * 1000000)

/-- `g(Δ)`: the index clamped to the stored sample count (R45). -/
def Transfer.clampedIndex (t : Transfer) (delta : Nat) : Nat :=
  min (t.index delta) t.count

/-- Whether an index was clamped: `f(Δ)` above the count (R45). -/
def Transfer.clampsAt (t : Transfer) (delta : Nat) : Bool :=
  decide (t.count < t.index delta)

/-- The byte offset of an index in a placement (R51). -/
def Transfer.byteOffset (t : Transfer) (q : Placement) (index : Nat) : Nat :=
  q.base + index * t.frameBytes

/-- The trims one frame adds to the gain: its item trim and the segment trim of its segment in use
(R52). -/
def PathFrame.trims (f : PathFrame) (records : List ItemRecord) : Int :=
  ((findRecord records f.accession).map (·.trim)).getD 0 +
    match (f.segmentIn records).map (·.body) with
    | some (.transfer trim _) => trim
    | some (.reference trim _ _) => trim
    | _ => 0

/-- The raw gain sum of a path, from a cursor trim (R52). -/
def rawGain (records : List ItemRecord) (trim : Int) (path : List PathFrame) : Int :=
  path.foldl (fun acc f => acc + f.trims records) trim

/-- The delivered gain: the raw sum saturated to -600 to +120 (R53). -/
def saturateGain (raw : Int) : Int :=
  if Config.maxGain < raw then Config.maxGain
  else if raw < Config.minGain then Config.minGain
  else raw

/-- Whether a raw sum was saturated, above or below (R53). -/
def gainHigh (raw : Int) : Bool := decide (Config.maxGain < raw)
def gainLow (raw : Int) : Bool := decide (raw < Config.minGain)

/-! ### Copy selection -/

/-- Whether a placement may be read: its volume is ONLINE (R127). -/
def Placement.eligible (q : Placement) (volumes : Table Volume 64) : Bool :=
  (volumes.get q.volume).health == .online

/-- A TRANSFER segment's placement of one copy. -/
def Transfer.placement (t : Transfer) : Copy → Option Placement
  | .primary => some t.primary
  | .secondary => t.secondary

/-- A copy with its placement, when it is present and eligible (R127). -/
def Transfer.eligibleCopy (t : Transfer) (volumes : Table Volume 64) (c : Copy) :
    Option (Copy × Placement) :=
  match t.placement c with
  | some q => if q.eligible volumes then some (c, q) else none
  | none => none

/-- The copies a preference tries, first choice first (R127). -/
def CopyPreference.order : CopyPreference → List Copy
  | .primaryFirst => [.primary, .secondary]
  | .secondaryFirst => [.secondary, .primary]
  | .primaryOnly => [.primary]
  | .secondaryOnly => [.secondary]

/-- Copy selection: the first eligible copy in the preference's order, or none (R127). -/
def Transfer.chooseCopy (t : Transfer) (volumes : Table Volume 64) (preference : CopyPreference) :
    Option (Copy × Placement) :=
  preference.order.findSome? (t.eligibleCopy volumes)

end Sys2Proof.Machine
end

