-- ==== Sys2Proof/Machine/Paths.lean ====
section
/-! DEFINITION. Reference resolution: pushing frames, following successors, building a path and
advancing along one (chapter 4). -/

namespace Sys2Proof.Machine

/-- What ends path work early: a fault of a push (R68), or a push that met an entry escalated to
DETACH (R101). -/
inductive Stop where
  | fault (code : FaultCode)
  | detached
  deriving DecidableEq, Repr

/-- Path work under way: the frames so far from the top, whether a push met a YIELD (R101), and what
stopped it. -/
structure Walk where
  path : List PathFrame
  yielded : Bool
  stop : Option Stop
  deriving DecidableEq, Repr

/-- What path work reads: the catalogue as it stands (R74), the clearance of the resolution, and the
strongest action that a push of an item meets in the deferral queue (R73, R171). -/
structure PathView where
  records : List ItemRecord
  clearance : Nat
  action : Nat → Action

/-- A frame entering a record with a displacement, its segment in use found at its local position
(R61, R67). -/
def frameFor (r : ItemRecord) (displacement : Int) (viaSuccessor : Bool) (p : Nat) : PathFrame where
  accession := r.accession
  revisionSeen := r.revision
  segment := segmentAt r.segments (p - displacement)
  displacement := displacement
  viaSuccessor := viaSuccessor

/-- A frame pushed, and the push reported to the deferral queue (R73, R101, R171). -/
def Walk.push (w : Walk) (v : PathView) (f : PathFrame) : Walk :=
  match v.action f.accession with
  | .detach => { w with path := w.path ++ [f], stop := some .detached }
  | .yield => { w with path := w.path ++ [f], yielded := true }
  | .notify | .none => { w with path := w.path ++ [f] }

/-- Path work stopped by a fault (R68). -/
def Walk.faulted (w : Walk) (code : FaultCode) : Walk := { w with stop := some (.fault code) }

/-- Successor links followed from a record, with `links` still to follow: the record that ends the
chain, or the fault of R66. -/
def followSuccessors (records : List ItemRecord) : Nat → ItemRecord → Except FaultCode ItemRecord
  | links, r =>
    if r.state = .withdrawn then
      match r.successor with
      | none => .error .withdrawnTarget
      | some a =>
        match links with
        | 0 => .error .successorChain
        | links + 1 =>
          match findRecord records a with
          | none => .error .missingTarget
          | some next => followSuccessors records links next
    else .ok r

/-- The record a REFERENCE segment's target is entered in, and whether a successor link was followed
(R65 checks 2 to 4). -/
def resolveTarget (v : PathView) (target : Nat) : Except FaultCode (ItemRecord × Bool) :=
  match findRecord v.records target with
  | none => .error .missingTarget
  | some r =>
    match followSuccessors v.records Config.linkLimit r with
    | .error code => .error code
    | .ok reached =>
      if v.clearance < reached.restriction then .error .restrictedTarget
      else .ok (reached, decide (r.state = .withdrawn))

/-- The REFERENCE segment that the newest frame stands in, if it stands in one, with the displacement
its target takes (R42, R63). -/
def referenceBelow (records : List ItemRecord) (path : List PathFrame) : Option (Nat × Int) :=
  match path.getLast? with
  | none => none
  | some f =>
    match f.segmentIn records with
    | some ⟨start, _, .reference _ target offset⟩ => some (target, f.displacement + start - offset)
    | _ => none

/-- Targets pushed from the newest frame down to a leaf frame, with room for `room` more frames; a
REFERENCE met with no room left faults DEPTH (R63, R65, R69). -/
def Walk.descend (v : PathView) (p : Nat) : Nat → Walk → Walk
  | room, w =>
    if w.stop.isSome then w
    else
      match referenceBelow v.records w.path with
      | none => w
      | some (target, displacement) =>
        match room with
        | 0 => w.faulted .depth
        | room + 1 =>
          match resolveTarget v target with
          | .error code => w.faulted code
          | .ok (r, via) => Walk.descend v p room (w.push v (frameFor r displacement via p))

/-- A path built at a position from an empty path: the top frame after its three checks, then targets
down to a leaf frame (R63, R64). -/
def buildPath (v : PathView) (top p : Nat) : Walk :=
  let empty : Walk := ⟨[], false, none⟩
  match findRecord v.records top with
  | none => empty.faulted .missingTarget
  | some r =>
    if r.state = .withdrawn then empty.faulted .withdrawnTarget
    else if v.clearance < r.restriction then empty.faulted .restrictedTarget
    else Walk.descend v p (Config.pathDepth - 1) (empty.push v (frameFor r 0 false p))

/-- Whether a frame turns at a position: its segment in use no longer holds its local position. A
frame at end holds no segment and does not turn (R69). -/
def PathFrame.turnsAt (f : PathFrame) (records : List ItemRecord) (p : Nat) : Bool :=
  match f.segmentIn records with
  | none => false
  | some g => !g.holds (f.localAt p)

/-- The frames of a path kept by an advance to `p`: those above the turning frame as they are, and the
turning frame with its segment in use found afresh; and whether a frame turned (R69). -/
def keptFrames (records : List ItemRecord) (p : Nat) : List PathFrame → List PathFrame × Bool
  | [] => ([], false)
  | f :: rest =>
    if f.turnsAt records p then
      let segments := ((findRecord records f.accession).map (·.segments)).getD []
      ([{ f with segment := segmentAt segments (f.localAt p) }], true)
    else
      let kept := keptFrames records p rest
      (f :: kept.1, kept.2)

/-- A path advanced to `p` (R69, R70). -/
def advancePath (v : PathView) (path : List PathFrame) (p : Nat) : Walk :=
  let kept := keptFrames v.records p path
  let w : Walk := ⟨kept.1, false, none⟩
  if kept.2 then Walk.descend v p (Config.pathDepth - kept.1.length) w else w

/-- The revision check: every frame's revision seen equals its record's revision (R75). -/
def pathCurrent (records : List ItemRecord) (path : List PathFrame) : Bool :=
  path.all fun f =>
    match findRecord records f.accession with
    | some r => r.revision == f.revisionSeen
    | none => false

/-- A cursor after path work: its yield flag set when a push met a YIELD, its path standing, or the
cursor FAULTED or DETACHED with no path (R68, R81, R101). -/
def Cursor.landed (c : Cursor) (w : Walk) : Cursor :=
  let c := { c with yieldFlag := c.yieldFlag || w.yielded }
  match w.stop with
  | none => { c with path := w.path }
  | some (.fault code) => c.faultedWith code
  | some .detached => c.detachedNow

/-- A cursor placed at its position by OPEN CURSOR or SEEK: ENDED at the item's end, and otherwise OPEN
or YIELDING; a landing that stopped keeps its state (R84, R86). -/
def Cursor.placed (c : Cursor) (w : Walk) (duration : Nat) : Cursor :=
  let landed := c.landed w
  match w.stop with
  | some _ => landed
  | none =>
    { landed with
      fault := none
      state := if landed.position = duration then .ended else landed.playing }

end Sys2Proof.Machine
end

