-- ==== Sys2Proof/Machine/Escalation.lean ====
section
/-! DEFINITION. Escalation of deferral entries: thresholds and actions, reaching a stage, what a push of
an item with an entry meets, and settling after a command's path work (chapter 8). -/

namespace Sys2Proof.Machine

/-- The threshold of stage `k`: tHOLD1 + ... + tHOLDk (R166). -/
def Settings.threshold (st : Settings) (k : Nat) : Nat :=
  ([st.tHold1, st.tHold2, st.tHold3].take k).sum

/-- The live action of stage `k` (R166). -/
def Settings.action (st : Settings) (k : Nat) : Action :=
  match k with
  | 1 => st.act1
  | 2 => st.act2
  | 3 => st.act3
  | _ => .none

/-- The actions in their order of strength (R166). -/
def Action.rank : Action → Nat
  | .none => 0
  | .notify => 1
  | .yield => 2
  | .detach => 3

def Action.stronger (a b : Action) : Action := if a.rank < b.rank then b else a

/-- The strongest of the live actions ACT1 to ACTk (R171, R177). -/
def Settings.strongest (st : Settings) (k : Nat) : Action :=
  ([st.act1, st.act2, st.act3].take k).foldl Action.stronger .none

/-- The deferral entry of an accession. -/
def State.entry? (s : State) (accession : Nat) : Option Entry :=
  s.queue.find? fun e => e.accession == accession

/-- What a push of an item meets: the strongest action its entry has reached, while that entry is
WAITING or READY (R73, R171). -/
def State.pushAction (s : State) (accession : Nat) : Action :=
  match s.entry? accession with
  | none => .none
  | some e => if e.state = .committing then .none else s.settings.strongest e.stage

/-- What a cursor's path work reads of the part. -/
def State.view (s : State) (clearance : Nat) : PathView :=
  ⟨s.store.records, clearance, s.pushAction⟩

/-- A yield request: the yield flag set on every cursor whose path names the item (R99). -/
def State.yieldAll (s : State) (accession : Nat) : State :=
  s.withCursors (s.cursors.map fun c => if c.names accession then c.yielded else c)

/-- A detach request: every cursor whose path names the item loses its path and becomes DETACHED, and
CURSOR_DETACHED is raised for each (R100). -/
def State.detachAll (s : State) (accession : Nat) : State :=
  (List.finRange 16).foldl
    (fun t n =>
      if (s.cursors.get n).names accession then
        (t.setCursor n (s.cursors.get n).detachedNow).raise (.cursorDetached n)
      else t)
    s

/-- The stages an entry has not reached whose thresholds its age has reached (R167). -/
def Entry.dueStages (e : Entry) (st : Settings) : List Nat :=
  [1, 2, 3].filter fun k => decide (e.stage < k ∧ st.threshold k ≤ e.age)

/-- One entry of the queue rewritten. -/
def modifyEntry (accession : Nat) (f : Entry → Entry) (queue : List Entry) : List Entry :=
  queue.map fun e => if e.accession = accession then f e else e

/-- A stage reached, and its live action taken (R167 to R170). -/
def State.takeStage (s : State) (accession k : Nat) : State :=
  let s := s.withQueue (modifyEntry accession (fun e => { e with stage := k }) s.queue)
  match s.settings.action k with
  | .none => s
  | .notify => s.raise .changeStage
  | .yield => (s.raise .changeStage).yieldAll accession
  | .detach => (s.raise .changeStage).detachAll accession

/-- Every due stage of one entry reached in turn, when the entry is WAITING and the engine THAWED, and
the use counts settled after (R167, log entry 12). -/
def State.reachStages (s : State) (accession : Nat) : State :=
  if s.engine.frozen then s
  else
    match s.entry? accession with
    | none => s
    | some e =>
      if e.state = .waiting then
        match e.dueStages s.settings with
        | [] => s
        | stages => (stages.foldl (fun t k => t.takeStage accession k) s).settleCounts
      else s

/-- The comparison of R167 made for every entry, in arrival order, the counts settled after each and the
engine's take left until after the last (R162; log entry 13). -/
def State.reachAllStages (s : State) : State :=
  (s.queue.map (·.accession)).foldl State.reachStages s

/-- The counts settled after a command's path work, and the comparison of R167 made for each entry that
has entered WAITING from READY (R72, R161, R167). DESIGN CHOICE, log entry 13: when one settle returns
several entries, they are compared in arrival order and the counts settle after each, so that an earlier
one's DETACH can make a later one READY before its own comparison. -/
def State.settle (s : State) : State :=
  s.reentering.foldl State.reachStages s.settleCounts

end Sys2Proof.Machine
end

