-- ==== Sys2Proof/Machine/Commits.lean ====
section
/-! DEFINITION. The commit engine's own work: what a change needs and does, starting a commit, taking
READY entries, completing, failing, and a soft reset taking effect (chapter 7). -/

namespace Sys2Proof.Machine

/-- The accession a change names, and 0 for CLEAR HOLDINGS and STORE SETTINGS (R132). -/
def Change.accession : Change → Nat
  | .writeItem h _ => h.accession.toNat
  | .amendSegments a .. => a
  | .setItemFields a _ => a
  | .certifyItem a => a
  | .retireItem a _ => a
  | .purgeItem a => a
  | .clearHoldings => 0
  | .storeSettings _ => 0

/-- Whether a change names an accession at all (R133). -/
def Change.namesItem : Change → Bool
  | .clearHoldings => false
  | .storeSettings _ => false
  | _ => true

def Change.kind : Change → ChangeKind
  | .writeItem .. => .writeItem
  | .amendSegments .. => .amendSegments
  | .setItemFields .. => .setItemFields
  | .certifyItem .. => .certifyItem
  | .retireItem .. => .retireItem
  | .purgeItem .. => .purgeItem
  | .clearHoldings => .clearHoldings
  | .storeSettings .. => .storeSettings

/-- The bytes of a deferred change's payload (R160). -/
def Change.payloadLength : Change → Nat
  | .writeItem _ segments => 32 + 48 * segments.length
  | .amendSegments _ _ _ _ run => 6 + 48 * run.length
  | .setItemFields .. => 15
  | .certifyItem _ => 3
  | .retireItem .. => 6
  | .purgeItem _ => 3
  | .clearHoldings => 0
  | .storeSettings _ => 0

/-- The segments a change needs when its commit starts (R35, R133). -/
def Change.segmentsNeeded : Change → Nat
  | .writeItem _ segments => segments.length
  | .amendSegments _ _ _ _ run => run.length
  | _ => 0

/-- The slots a change needs when its commit starts: one for a create (R35, R133). -/
def Change.slotsNeeded (c : Change) (records : List ItemRecord) : Nat :=
  match c with
  | .writeItem h _ => if (findRecord records h.accession.toNat).isSome then 0 else 1
  | _ => 0

/-- Whether a change is deferrable: a replacement, an amendment or a retirement (R133). -/
def Change.deferrable (c : Change) (records : List ItemRecord) : Bool :=
  match c with
  | .writeItem h _ => (findRecord records h.accession.toNat).isSome
  | .amendSegments .. => true
  | .retireItem .. => true
  | _ => false

/-! ### What a completed change does to the store -/

/-- The header fields a WRITE ITEM gives a record (R2, R212). -/
def recordOfHeader (h : WireHeader) (segments : List WireSegment) (revision : BitVec 16) :
    ItemRecord where
  accession := h.accession.toNat
  state := .active
  carrierKind := (CarrierKind.ofByte h.carrierKind).getD .other
  carrierId := h.carrierId.toNat
  side := h.side.toNat
  track := h.track.toNat
  duration := h.duration.toNat
  trim := h.trim.toInt
  restriction := h.restriction.toNat
  grade := h.grade.toNat
  successor := none
  revision := revision
  segments := segments.map segmentOfWire

/-- An amended segment list: the segments before the run, the new run, the segments after it (R32). -/
def amendedSegments (old : List Segment) (first k : Nat) (run : List WireSegment) : List Segment :=
  old.take first ++ run.map segmentOfWire ++ old.drop (first + k)

/-- The named header fields given their new values (R2, R144). -/
def ItemRecord.withFields (r : ItemRecord) (f : WireFields) : ItemRecord :=
  { r with
    trim := if f.namesTrim then f.trim.toInt else r.trim
    restriction := if f.namesRestriction then f.restriction.toNat else r.restriction
    grade := if f.namesGrade then f.grade.toNat else r.grade
    carrierKind := if f.namesKind then (CarrierKind.ofByte f.carrierKind).getD .other
      else r.carrierKind
    carrierId := if f.namesCarrierId then f.carrierId.toNat else r.carrierId
    side := if f.namesSide then f.side.toNat else r.side
    track := if f.namesTrack then f.track.toNat else r.track }

/-- A record's revision raised by 1, 65,535 followed by 0 (R3). -/
def ItemRecord.revised (r : ItemRecord) : ItemRecord := { r with revision := r.revision + 1#16 }

/-- The records after a change completes with DONE (R6, R144). -/
def Change.applyRecords (c : Change) (records : List ItemRecord) : List ItemRecord :=
  match c with
  | .writeItem h segments =>
    match findRecord records h.accession.toNat with
    | none => insertRecord (recordOfHeader h segments 0#16) records
    | some _ =>
      modifyRecord h.accession.toNat
        (fun r => recordOfHeader h segments (r.revision + 1#16)) records
  | .amendSegments a first k _ run =>
    modifyRecord a
      (fun r => { r.revised with segments := amendedSegments r.segments first k run }) records
  | .setItemFields a fields => modifyRecord a (fun r => r.revised.withFields fields) records
  | .certifyItem a => modifyRecord a (fun r => { r.revised with state := .certified }) records
  | .retireItem a successor =>
    modifyRecord a
      (fun r => { r.revised with
        state := .withdrawn
        successor := if successor = 0 then none else some successor
        segments := [] }) records
  | .purgeItem a => records.filter fun r => r.accession ≠ a
  | .clearHoldings => records.filter fun r => r.state = .certified
  | .storeSettings _ => records

/-- The store after a change completes with DONE, or after a hard reset that found its closing mark
written (R11, R144, R156, R207). -/
def Change.applyStore (c : Change) (store : Store) : Store where
  records := c.applyRecords store.records
  settings :=
    match c with
    | .storeSettings snapshot => some snapshot
    | _ => store.settings

/-- The slots a completed change returns to the free-slot list (R10). -/
def Change.slotsFreed (c : Change) (records : List ItemRecord) : Nat :=
  match c with
  | .purgeItem _ | .clearHoldings => records.length - (c.applyRecords records).length
  | _ => 0

/-- The segments a completed change returns to the free-segment list (R35, R36). -/
def Change.segmentsFreed (c : Change) (records : List ItemRecord) : Nat :=
  match c with
  | .writeItem h _ => ((findRecord records h.accession.toNat).map (·.segments.length)).getD 0
  | .amendSegments a first k _ _ =>
    ((findRecord records a).map fun r => ((r.segments.drop first).take k).length).getD 0
  | .retireItem a _ => ((findRecord records a).map (·.segments.length)).getD 0
  | .purgeItem a => ((findRecord records a).map (·.segments.length)).getD 0
  | .clearHoldings => segmentsOwned (records.filter fun r => r.state ≠ .certified)
  | .setItemFields .. | .certifyItem _ | .storeSettings _ => 0

/-! ### Starting a commit -/

/-- A commit starts: the engine records the change in flight, and the slot and segments it needs become
provisional (R36, R142). -/
def State.startCommit (s : State) (c : Change) (source : Source) : State :=
  let slots := c.slotsNeeded s.store.records
  (s.withEngine { s.engine with
      inFlight := some ⟨c, source, slots, c.segmentsNeeded⟩ }).withIndex
    { s.index with
      vacantSlots := s.index.vacantSlots - slots
      freeSegments := s.index.freeSegments - c.segmentsNeeded }

/-- Whether the slot or segments a change needs are not free (R140). -/
def State.lacksSpace (s : State) (c : Change) : Bool :=
  decide (s.index.vacantSlots < c.slotsNeeded s.store.records ∨
    s.index.freeSegments < c.segmentsNeeded)

/-! ### The last-commit record -/

/-- The last-commit record set at the end of a change (R147). `records` are those in which the revision
is read. Where the change names an item and no record stands, the revision is a free value: log
entry 10. -/
def State.noteCommit (s : State) (c : Change) (outcome : CommitOutcome) (records : List ItemRecord) :
    State :=
  let set (s : State) (revision : BitVec 16) : State :=
    s.withEngine { s.engine with lastCommit := some ⟨c.accession, c.kind, outcome, revision⟩ }
  if c.namesItem then
    match findRecord records c.accession with
    | some r => set s r.revision
    | none => set (s.withOpenValues (s.openValues + 1)) (Config.revisionOfNoRecord s.openValues)
  else set s 0#16

/-! ### Taking READY entries -/

/-- A deferral entry leaving the queue, and its item's pending field becoming no (R159). -/
def State.removeEntry (s : State) (accession : Nat) : State :=
  (s.withQueue (s.queue.filter fun e => e.accession ≠ accession)).withIndex
    (s.index.setPending accession false)

/-- Whether a record may stand as a successor: ACTIVE or CERTIFIED (R5). -/
def standsAsSuccessor (records : List ItemRecord) (accession : Nat) : Bool :=
  match findRecord records accession with
  | none => false
  | some r => r.state ≠ .withdrawn

/-- The re-checks of protection, space and successor at a take: the outcome of the first that fails
(R150). -/
def State.recheck (s : State) (e : Entry) : Option CommitOutcome :=
  if s.settings.protects e.accession then some .protection
  else if s.index.freeSegments < e.payload.segmentsNeeded then some .noSpace
  else
    match e.payload with
    | .retireItem _ successor =>
      if successor ≠ 0 ∧ ¬ standsAsSuccessor s.store.records successor then some .successorInvalid
      else none
    | _ => none

/-- A late failure: the entry is removed, the last-commit record set and COMMIT_FAILED raised (R150,
R164). -/
def State.lateFailure (s : State) (e : Entry) (outcome : CommitOutcome) : State :=
  ((s.removeEntry e.accession).noteCommit e.payload outcome s.store.records).raise .commitFailed

/-- The oldest READY entry (R162). -/
def State.oldestReady (s : State) : Option Entry :=
  s.queue.find? fun e => e.state == .ready

/-- Whether the engine may take an entry: IDLE, THAWED and no soft reset pending (R148, R162). -/
def State.mayTake (s : State) : Bool :=
  !s.committing && !s.engine.frozen && !s.resetPending

/-- The engine takes the oldest READY entry, and after a late failure the next one, until a commit has
started or no entry is READY (R148, R150). `n` is as many entries as may be taken. -/
def State.takeEntries : Nat → State → State
  | 0, s => s
  | n + 1, s =>
    if s.mayTake then
      match s.oldestReady with
      | none => s
      | some e =>
        match s.recheck e with
        | some outcome => State.takeEntries n (s.lateFailure e outcome)
        | none =>
          (s.withQueue (modifyEntry e.accession (fun x => { x with state := .committing }) s.queue)).startCommit
            e.payload .queue
    else s

/-- The engine proceeds to the oldest READY entry, if it may take one (R148 cases 2 and 3, R162). -/
def State.proceed (s : State) : State := State.takeEntries s.queue.length s

/-- A command's path work settled: the counts, the stages that follow, and the engine's take (R72, R162,
R167). DESIGN CHOICE, log entry 13: the take comes once, after the last stage. -/
def State.settleAndProceed (s : State) : State := s.settle.proceed

/-! ### Resets -/

/-- A soft reset takes effect: every block at its reset state and the start-up scan begun (R193). -/
def State.softReset (s : State) : State :=
  State.startUp s.pending s.pins.selectLow s.store s.openValues

/-- What follows a completion: a pending soft reset, or else the oldest READY entry (R148, R154). DESIGN
CHOICE, log entry 30: the reset takes effect at the completion although RESET's own frame is still in
progress, and abandons that frame as R193 has any frame. -/
def State.afterCompletion (s : State) : State :=
  if s.resetPending then s.softReset else s.proceed

/-! ### Completion and failure -/

/-- The position of a cursor on the changed item clamped to its new duration, and the clamp noted
(R102). -/
def Cursor.clampedTo (c : Cursor) (accession : Nat) (records : List ItemRecord) : Cursor :=
  if c.state ≠ .closed ∧ c.top = accession then
    match findRecord records accession with
    | some r => if r.duration < c.position then { c with position := r.duration, clampNote := true } else c
    | none => c
  else c

/-- Whether a cursor's path names a record that is not in `records` (R145). -/
def Cursor.namesRemoved (c : Cursor) (records : List ItemRecord) : Bool :=
  c.path.any fun f => (findRecord records f.accession).isNone

/-- Every cursor whose path names a removed record faulted MISSING_TARGET, CURSOR_FAULTED raised for
each, and the counts brought down (R145). -/
def State.dropRemoved (s : State) (records : List ItemRecord) : State :=
  ((List.finRange 16).foldl
    (fun t n =>
      if (s.cursors.get n).namesRemoved records then
        (t.setCursor n ((s.cursors.get n).faultedWith .missingTarget)).raise (.cursorFaulted n)
      else t)
    s).settleCounts

/-- The catalogue index with the new version of the records in force, and the slots and places the
change gives back (R36, R144). -/
def Index.advanced (ix : Index) (c : Change) (old new : List ItemRecord) : Index where
  entries := entriesOf ix new
  carriers := carriersOf new
  vacantSlots := ix.vacantSlots + c.slotsFreed old
  freeSegments := ix.freeSegments + c.segmentsFreed old

/-- The new version put in force in one step: the store, the indexes, and the cursors it reaches
(R144). -/
def State.install (s : State) (c : Change) : State :=
  let records := c.applyRecords s.store.records
  let t := (s.withStore (c.applyStore s.store)).withIndex (s.index.advanced c s.store.records records)
  match c with
  | .clearHoldings => t.dropRemoved records
  | _ => t.withCursors (t.cursors.map fun x => x.clampedTo c.accession records)

/-- The records in which a completed change's revision is read: for PURGE ITEM the record as it was
removed, and otherwise the new version (R147). -/
def revisionRecords (c : Change) (old new : List ItemRecord) : List ItemRecord :=
  match c with
  | .purgeItem _ => old
  | _ => new

/-- The entry of a change that came from the queue leaves it; a change of source DIRECT has none (R144,
R146). -/
def State.releaseEntry (s : State) (f : InFlight) : State :=
  match f.source with
  | .queue => s.removeEntry f.change.accession
  | .direct => s

/-- The change in flight completes with DONE (R144, R147, R151). -/
def State.complete (s : State) (f : InFlight) : State :=
  let old := s.store.records
  let new := f.change.applyRecords old
  let t := (s.install f.change).releaseEntry f
  let t := t.withEngine { t.engine with inFlight := none }
  ((t.noteCommit f.change .done (revisionRecords f.change old new)).raise .commitDone).afterCompletion

/-- The change in flight ends with STORE_FAULT: the version in force stays, and the provisional slot and
segments return (R146, R147, R151). -/
def State.failStore (s : State) (f : InFlight) : State :=
  let t := (s.withIndex { s.index with
    vacantSlots := s.index.vacantSlots + f.provisionalSlots
    freeSegments := s.index.freeSegments + f.provisionalSegments }).releaseEntry f
  let t := t.withEngine { t.engine with inFlight := none }
  ((t.noteCommit f.change .storeFault t.store.records).raise .commitFailed).afterCompletion

end Sys2Proof.Machine
end

