-- ==== Sys2Proof/Machine/Link.lean ====
section
/-! DEFINITION. The link controller: when a command takes effect, the readiness check, the response held
in the frame in progress, and how a frame ends (chapter 9). -/

namespace Sys2Proof.Machine

/-- Whether a command that arrives now takes effect: a frame is open and has brought no command yet.
With select high, in DISCARD, after a command has taken effect and while the part is held in reset, the
bytes are not read (R179, R180, R186, R191; log entry 1). -/
def State.takesCommand (s : State) : Bool :=
  !s.pins.held &&
    match s.link.frame with
    | some f => f.phase == .code
    | none => false

/-- The response fixed in the frame in progress, which enters TURNAROUND (R181, R182). -/
def State.respond (s : State) (i : Instr) (r : Response) : State :=
  s.withLink { s.link with frame := some ⟨.turnaround, i.code, i.frameBytes, r.bytes⟩ }

/-- A frame that has brought some of its argument bytes and waits for the rest (R181). -/
def State.awaitArguments (s : State) (i : Instr) : State :=
  s.withLink { s.link with frame := some ⟨.arguments, i.code, i.frameBytes, []⟩ }

/-- A host command reaching its moment of effect: the readiness check, then the owning block, whose
answer is fixed as the response (R181). `readiness` answers in the block's place when it gives a
response. -/
def linkCommand (i : Instr) (readiness : State → Option Response)
    (effect : State → State × Response) (s : State) : State :=
  if s.takesCommand then
    match readiness s with
    | some r => s.respond i r
    | none => (effect s).1.respond i (effect s).2
  else s

/-- The readiness check of every known command but READ STATUS and READ IDENTITY (R188). -/
def notReadyAnswer (s : State) : Option Response :=
  if s.starting || s.resetPending then some (.bare .notReady) else none

/-- A host command with the readiness check of R188. -/
def hostCommand (i : Instr) (effect : State → State × Response) (s : State) : State :=
  linkCommand i notReadyAnswer effect s

/-- A host command that changes nothing and answers from the state as it stands. -/
def hostQuery (i : Instr) (answer : State → Response) (s : State) : State :=
  hostCommand i (fun s => (s, answer s)) s

/-- Whether a frame's code is READ STATUS or READ IDENTITY, whose frames leave the last link result as
it stands (R185). -/
def leavesLinkResult (code : Byte) : Bool := code == 0x70#8 || code == 0x71#8

/-- A frame `n` clocks after the moment its command took effect: TURNAROUND for one byte time at the live
lane count, and RESPONSE from then on (R182, R184). -/
def Frame.clocked (f : Frame) (lanes n : Nat) : Frame :=
  if f.phase = .turnaround ∧ clocksPerByte lanes ≤ n then { f with phase := .response } else f

/-- What the rise of SEL makes of the last link result (R183, R184, R185): `none` leaves it. `sampled`
is the lanes at each clock since the frame's last row, and the frame stands as those clocks leave it. -/
def frameResult (lanes : Nat) (f : Frame) (sampled : List Lanes) : Option LinkResult :=
  match (f.clocked lanes sampled.length).phase with
  | .discard => none
  | .code =>
    match frameBytesOf lanes sampled with
    | [] => none
    | code :: _ =>
      if leavesLinkResult code then none
      else if knownCode code then some .truncated
      else some .unknownCode
  | .arguments => some .truncated
  | .turnaround | .response =>
    match f.code with
    | none => none
    | some code =>
      if leavesLinkResult code then none
      else if !knownCode code then some .unknownCode
      else if (1 + f.response.length) * clocksPerByte lanes ≤ sampled.length then some .complete
      else some .cutShort

/-- The link after SEL has risen: no frame, the last link result set, and the live lane count in force
from the next frame on (R183, R187). -/
def State.linkAfterFrame (s : State) (sampled : List Lanes) : Link where
  frame := none
  lanes := s.settings.linkLanes
  lastResult :=
    match s.link.frame with
    | none => s.link.lastResult
    | some f => (frameResult s.link.lanes f sampled).getD s.link.lastResult
  resetOrdered := false

/-- SEL rises: the frame ends, and a soft reset ordered in it takes effect, or waits for the commit in
flight with RESET_PENDING set (R183, R192, R193). -/
def State.endFrame (s : State) (sampled : List Lanes) : State :=
  let t := (s.withPins { s.pins with selectLow := false }).withLink (s.linkAfterFrame sampled)
  if s.link.resetOrdered then
    if s.committing then t.withResetPending true else t.softReset
  else t

/-- SEL falls: a frame opens, unless the part is held in reset (R180, R191). -/
def State.openFrame (s : State) : State :=
  let t := s.withPins { s.pins with selectLow := true }
  if s.pins.held then t else t.withLink { s.link with frame := some Frame.opened }

/-- The level of the NOTICE output (R191, R197). -/
def State.noticeHigh (s : State) : Bool := s.notices.latched && !s.pins.held

end Sys2Proof.Machine
end

