-- ==== Sys2Proof/Machine/Content.lean ====
section
/-! DEFINITION. The content checks of the change commands, each naming the first check that fails (R2,
R29, R30, R32, R137, R138). -/

namespace Sys2Proof.Machine

/-! ### The header -/

/-- Whether every header field of a WRITE ITEM lies in its range (R1, R2). -/
def headerInRange (h : WireHeader) : Bool :=
  decide (1 ≤ h.accession.toNat) && (CarrierKind.ofByte h.carrierKind).isSome
    && decide (h.side.toNat ≤ 15) && decide (1 ≤ h.carrierId.toNat)
    && decide (1 ≤ h.duration.toNat ∧ h.duration.toNat ≤ Config.maxPosition)
    && decide (h.restriction.toNat ≤ 7) && decide (h.grade.toNat ≤ 5)
    && trimInRange h.trim.toInt

/-! ### Segments -/

/-- The six rates of R23. -/
def rates : List Nat := [44100, 48000, 88200, 96000, 176400, 192000]

/-- Whether the speed ratio passes (R24, R30). -/
def speedPasses (n d : Nat) : Bool :=
  decide (1 ≤ n ∧ 1 ≤ d ∧ n ≤ 8 * d ∧ d ≤ 8 * n)

/-- The PLACEMENT check: the primary present with a volume 0 to 63, and the secondary absent or with a
volume 0 to 63 (R25, R30, R212). File and byte base cannot leave their ranges in their widths. -/
def placementPasses (g : WireSegment) : Bool :=
  decide (g.primaryVolume.toNat ≤ 63) &&
    (g.secondaryVolume == 0xFF#8 || decide (g.secondaryVolume.toNat ≤ 63))

/-- Whether a byte base leaves every frame below 2^48 (R25). -/
def rangePasses (g : WireSegment) (base : Nat) : Bool :=
  decide (base + g.count.toNat * (wireChannels g * wireWidth g) ≤ Config.byteLimit)

/-- The PLACEMENT_RANGE check (R30). -/
def placementRangePasses (g : WireSegment) : Bool :=
  rangePasses g g.primaryBase.toNat &&
    (g.secondaryVolume == 0xFF#8 || rangePasses g g.secondaryBase.toNat)

/-- The rows of R30 that apply to a TRANSFER segment after TRIM. -/
def transferReason (g : WireSegment) : Option Reason :=
  if !rates.contains g.rate.toNat then some .rate
  else if !decide (1 ≤ wireChannels g ∧ wireChannels g ≤ 2 ∧ 2 ≤ wireWidth g ∧ wireWidth g ≤ 4) then
    some .frame
  else if !speedPasses g.nominal.toNat g.speed.toNat then some .speed
  else if !decide (1 ≤ g.count.toNat ∧ g.count.toNat ≤ Config.maxSampleCount) then some .count
  else if !placementPasses g then some .placement
  else if !placementRangePasses g then some .placementRange
  else none

/-- The rows of R30 that apply to a REFERENCE segment after TRIM. -/
def referenceReason (g : WireSegment) : Option Reason :=
  if g.rate.toNat = 0 then some .target
  else if Config.maxPosition < wireTargetOffset g then some .offset
  else none

/-- The first row of R30 that a segment fails. `expected` is where it must start, and `duration` the
item's duration. -/
def segmentReason (duration expected : Nat) (g : WireSegment) : Option Reason :=
  if !decide (1 ≤ g.kind.toNat ∧ g.kind.toNat ≤ 3) then some .kind
  else if g.start.toNat ≠ expected then some .start
  else if g.length.toNat = 0 ∨ duration < wireEnd g then some .length
  else if g.kind.toNat = 3 then none
  else if !trimInRange g.trim.toInt then some .trim
  else if g.kind.toNat = 1 then transferReason g
  else referenceReason g

/-- The first segment that fails, in ascending position from `position` on (R29). -/
def segmentsReport (duration : Nat) : Nat → Nat → List WireSegment → Option Report
  | _, _, [] => none
  | expected, position, g :: rest =>
    match segmentReason duration expected g with
    | some reason => some ⟨reason, .segment position⟩
    | none => segmentsReport duration (wireEnd g) (position + 1) rest

/-- Where the last segment of a run ends; `start` for an empty run. -/
def runEnd (start : Nat) (run : List WireSegment) : Nat :=
  (run.getLast?.map wireEnd).getD start

/-- The content check of WRITE ITEM (R29 to R31, R137). -/
def writeReport (h : WireHeader) (segments : List WireSegment) : Option Report :=
  if !headerInRange h then some ⟨.headerField, .header⟩
  else if expectedSegments h.segmentCount = 0 then some ⟨.segmentCount, .header⟩
  else
    match segmentsReport h.duration.toNat 0 0 segments with
    | some report => some report
    | none =>
      if runEnd 0 segments ≠ h.duration.toNat then some ⟨.end_, .segment (segments.length - 1)⟩
      else none

/-- The start of the segment at a list position, and the end of one (R32). -/
def startOf (segments : List Segment) (i : Nat) : Nat :=
  ((segments[i]?).map (·.start)).getD 0
def endOf (segments : List Segment) (i : Nat) : Nat :=
  ((segments[i]?).map fun g => g.start + g.length).getD 0

/-- The content check of AMEND SEGMENTS against the record in force (R29, R30, R32, R137). -/
def amendReport (r : ItemRecord) (first k m : Nat) (run : List WireSegment) : Option Report :=
  if ¬ (1 ≤ k ∧ k ≤ 64 ∧ 1 ≤ m ∧ m ≤ 64 ∧ first + k ≤ r.segments.length) then
    some ⟨.amendRange, .arguments⟩
  else
    match segmentsReport r.duration (startOf r.segments first) 0 run with
    | some report => some report
    | none =>
      if runEnd (startOf r.segments first) run ≠ endOf r.segments (first + k - 1) then
        some ⟨.amendSpan, .segment (m - 1)⟩
      else if Config.segmentLimit < r.segments.length - k + m then some ⟨.amendTotal, .arguments⟩
      else none

/-- Whether SET ITEM FIELDS names at least one field, and every named field lies in its range (R137). -/
def fieldsPass (f : WireFields) : Bool :=
  (f.namesTrim || f.namesRestriction || f.namesGrade || f.namesKind || f.namesCarrierId
      || f.namesSide || f.namesTrack)
    && (!f.namesTrim || trimInRange f.trim.toInt)
    && (!f.namesRestriction || decide (f.restriction.toNat ≤ 7))
    && (!f.namesGrade || decide (f.grade.toNat ≤ 5))
    && (!f.namesKind || (CarrierKind.ofByte f.carrierKind).isSome)
    && (!f.namesCarrierId || decide (1 ≤ f.carrierId.toNat))
    && (!f.namesSide || decide (f.side.toNat ≤ 15))

/-! ### Certification -/

def Segment.isReference (g : Segment) : Bool :=
  match g.body with
  | .reference .. => true
  | _ => false

def Segment.lacksSecondary (g : Segment) : Bool :=
  match g.body with
  | .transfer _ t => t.secondary.isNone
  | _ => false

/-- The certification checks: the first reason that holds, in the order of R138. -/
def certifyReport (r : ItemRecord) : Option Report :=
  if r.grade = 0 then some ⟨.grade, .header⟩
  else
    match r.segments.findIdx? (·.isReference) with
    | some i => some ⟨.reference, .segment i⟩
    | none =>
      match r.segments.findIdx? (·.lacksSecondary) with
      | some i => some ⟨.noSecondary, .segment i⟩
      | none => none

end Sys2Proof.Machine
end

