-- ==== Sys2Proof/Machine/Changes.lean ====
section
/-! DEFINITION. The change commands through their acceptance checks and routing (R134 to R140), and the
commands of the engine and the deferral queue: CANCEL PENDING, READ PENDING, FREEZE, THAW. -/

namespace Sys2Proof.Machine

/-! ### The acceptance checks -/

/-- The protection step (R135). -/
def State.protectsChange (s : State) (c : Change) : Bool :=
  match c with
  | .storeSettings _ => false
  | .clearHoldings =>
    s.store.records.any fun r => decide (r.state ≠ .certified) && s.settings.protects r.accession
  | _ => s.settings.protects c.accession

/-- Whether SET ITEM FIELDS names only restriction class and condition grade, and gives no grade of 0:
what a CERTIFIED record admits (R7). -/
def certifiedAdmits (f : WireFields) : Bool :=
  !(f.namesTrim || f.namesKind || f.namesCarrierId || f.namesSide || f.namesTrack)
    && !(f.namesGrade && f.grade == 0#8)

/-- The record state step for a change that names an accession: the refusal of the table in R7, or a
pass. -/
def recordStateRefusal (c : Change) (strict : Bool) (standing : Option RecordState)
    (useCount : Nat) : Option ResultCode :=
  match c, standing with
  | .writeItem .., none => none
  | .writeItem .., some state =>
    if strict then some .exists_
    else
      match state with
      | .active => none
      | .certified => some .locked
      | .withdrawn => some .withdrawn
  | .clearHoldings, _ => none
  | .storeSettings _, _ => none
  | .amendSegments .., none => some .notFound
  | .setItemFields .., none => some .notFound
  | .certifyItem _, none => some .notFound
  | .retireItem .., none => some .notFound
  | .purgeItem _, none => some .notFound
  | .purgeItem _, some .active => some .exists_
  | .purgeItem _, some .certified => some .locked
  | .purgeItem _, some .withdrawn => if useCount = 0 then none else some .inUse
  | .setItemFields _ fields, some .certified => if certifiedAdmits fields then none else some .locked
  | _, some .active => none
  | _, some .certified => some .locked
  | _, some .withdrawn => some .withdrawn

/-- The record state step (R136). -/
def State.recordRefusal (s : State) (c : Change) (strict : Bool) : Option ResultCode :=
  match c with
  | .clearHoldings => if s.cursors.list.any fun x => x.state ≠ .closed then some .inUse else none
  | .storeSettings _ => none
  | _ => recordStateRefusal c strict ((s.record? c.accession).map (·.state))
      (s.index.useCount c.accession)

/-- The content step (R137, R138). -/
def State.contentRefusal (s : State) (c : Change) : Option Response :=
  match c with
  | .writeItem h segments => (writeReport h segments).map .malformed
  | .amendSegments a first k m run =>
    match s.record? a with
    | none => none
    | some r => (amendReport r first k m run).map .malformed
  | .setItemFields _ fields =>
    if fieldsPass fields then none else some (.malformed ⟨.headerField, .arguments⟩)
  | .certifyItem a =>
    match s.record? a with
    | none => none
    | some r => (certifyReport r).map fun report => ⟨.incomplete, report.bytes⟩
  | .retireItem a successor =>
    if successor ≠ 0 ∧ (successor = a ∨ ¬ standsAsSuccessor s.store.records successor) then
      some (.malformed ⟨.successor, .arguments⟩)
    else none
  | .purgeItem _ => none
  | .clearHoldings => none
  | .storeSettings _ => none

/-- The pending entry step (R139). -/
def State.entryRefusal (s : State) (c : Change) : Bool :=
  match c with
  | .storeSettings _ => false
  | .clearHoldings => !s.queue.isEmpty
  | _ => (s.entry? c.accession).isSome

/-- Whether the change in flight is a CLEAR HOLDINGS or names the accession this change names (R140). -/
def State.blockedByFlight (s : State) (c : Change) : Bool :=
  match s.engine.inFlight with
  | none => false
  | some f =>
    decide (f.change.kind = .clearHoldings) ||
      (c.namesItem && f.change.namesItem && f.change.accession == c.accession)

/-- A change joins the deferral queue, last in arrival order and WAITING, and its item's pending field
becomes yes (R158, R159). A stage whose threshold is 0 is reached as it joins (R167). -/
def State.join (s : State) (c : Change) : State :=
  ((s.withQueue (s.queue ++ [⟨c.accession, c, .waiting, 0, 0⟩])).withIndex
    (s.index.setPending c.accession true)).reachStages c.accession

/-- The routing step (R140). -/
def State.route (s : State) (c : Change) : State × Response :=
  if s.blockedByFlight c then (s, .bare .busy)
  else if c.deferrable s.store.records && decide (0 < s.index.useCount c.accession) then
    if s.queue.length < Config.queueSize then
      ((s.join c).proceed, ⟨.deferred, bytesOf 1 (s.queue.length + 1)⟩)
    else (s, .bare .queueFull)
  else if s.committing then (s, .bare .busy)
  else if s.lacksSpace c then (s, .bare .noSpace)
  else (s.startCommit c .direct, ⟨.accepted, bytesOf 3 c.accession ++ [c.kind.byte]⟩)

/-- The acceptance checks after readiness, the first that fails answering the command (R134). -/
def State.acceptChange (s : State) (c : Change) (strict : Bool) : State × Response :=
  if s.engine.frozen then (s, .bare .frozen)
  else if s.protectsChange c then (s, .bare .underProtection)
  else
    match s.recordRefusal c strict with
    | some code => (s, .bare code)
    | none =>
      match s.contentRefusal c with
      | some response => (s, response)
      | none => if s.entryRefusal c then (s, .bare .pendingExists) else s.route c

/-! ### The change commands -/

/-- WRITE ITEM takes effect when the last segment its header counts has arrived; with fewer, the frame
waits for the rest, and segments beyond the count are extra bytes (R31, R186; log entry 18). -/
def execWriteItem (form : Byte) (header : WireHeader) (segments : List WireSegment) (s : State) :
    Host.Outcome State Fault Refusal :=
  let expected := expectedSegments header.segmentCount
  if segments.length < expected then
    .next (if s.takesCommand then s.awaitArguments (.writeItem form header segments) else s)
  else
    .next (hostCommand (.writeItem form header (segments.take expected))
      (fun s => s.acceptChange (.writeItem header (segments.take expected)) (strictForm form)) s)

/-- AMEND SEGMENTS takes effect when the last segment of the new count has arrived (R32, R186; log
entry 18). -/
def execAmendSegments (form : Byte) (accession : BitVec 24) (first oldCount newCount : Byte)
    (run : List WireSegment) (s : State) : Host.Outcome State Fault Refusal :=
  let expected := expectedSegments newCount
  if run.length < expected then
    .next (if s.takesCommand then
      s.awaitArguments (.amendSegments form accession first oldCount newCount run) else s)
  else
    .next (hostCommand (.amendSegments form accession first oldCount newCount (run.take expected))
      (fun s => s.acceptChange (.amendSegments accession.toNat first.toNat oldCount.toNat
        newCount.toNat (run.take expected)) false) s)

def execSetItemFields (form : Byte) (accession : BitVec 24) (fields : WireFields) (s : State) :
    Host.Outcome State Fault Refusal :=
  .next (hostCommand (.setItemFields form accession fields)
    (fun s => s.acceptChange (.setItemFields accession.toNat fields) false) s)

def execCertifyItem (form : Byte) (accession : BitVec 24) (s : State) :
    Host.Outcome State Fault Refusal :=
  .next (hostCommand (.certifyItem form accession)
    (fun s => s.acceptChange (.certifyItem accession.toNat) false) s)

def execRetireItem (form : Byte) (accession successor : BitVec 24) (s : State) :
    Host.Outcome State Fault Refusal :=
  .next (hostCommand (.retireItem form accession successor)
    (fun s => s.acceptChange (.retireItem accession.toNat successor.toNat) false) s)

def execPurgeItem (form : Byte) (accession : BitVec 24) (s : State) :
    Host.Outcome State Fault Refusal :=
  .next (hostCommand (.purgeItem form accession)
    (fun s => s.acceptChange (.purgeItem accession.toNat) false) s)

def execClearHoldings (form : Byte) (s : State) : Host.Outcome State Fault Refusal :=
  .next (hostCommand (.clearHoldings form) (fun s => s.acceptChange .clearHoldings false) s)

/-- STORE SETTINGS, whose snapshot is every live setting as it stands at the start (R142, R207). -/
def execStoreSettings (form : Byte) (s : State) : Host.Outcome State Fault Refusal :=
  .next (hostCommand (.storeSettings form)
    (fun s => s.acceptChange (.storeSettings s.settings) false) s)

/-! ### The deferral queue's commands -/

/-- CANCEL PENDING (R176). -/
def State.cancelPending (s : State) (accession : Nat) : State × Response :=
  match s.entry? accession with
  | none => (s, .bare .notFound)
  | some e =>
    if e.state = .committing then (s, .bare .busy)
    else
      let t := s.removeEntry accession
      (t, ⟨.ok, [e.payload.kind.byte, e.state.byte] ++ bytesOf 4 e.age ++ bytesOf 1 e.stage
        ++ bytesOf 1 t.queue.length⟩)

def execCancelPending (form : Byte) (accession : BitVec 24) (s : State) :
    Host.Outcome State Fault Refusal :=
  .next (hostCommand (.cancelPending form accession)
    (fun s => s.cancelPending accession.toNat) s)

/-- One entry as READ PENDING reports it (R177, R211). -/
def State.entryReport (s : State) (e : Entry) : List Byte :=
  bytesOf 3 e.accession ++ [e.payload.kind.byte, e.state.byte] ++ bytesOf 4 e.age
    ++ bytesOf 1 e.stage ++ [(s.settings.strongest e.stage).byte]
    ++ bytesOf 1 (s.index.useCount e.accession) ++ bytesOf 2 e.payload.payloadLength

/-- What READ PENDING answers (R177). -/
def State.readPending (s : State) : Response :=
  ⟨.ok, bytesOf 1 s.queue.length ++ bytesOf 1 s.readyCount ++ s.queue.flatMap s.entryReport⟩

def execReadPending (form : Byte) (s : State) : Host.Outcome State Fault Refusal :=
  .next (hostQuery (.readPending form) State.readPending s)

/-! ### Freeze -/

/-- The readiness check of FREEZE: while a soft reset is pending, NOT_READY carries its cause (R152,
R188). -/
def freezeReadiness (s : State) : Option Response :=
  if s.starting then some (.bare .notReady)
  else if s.resetPending then some ⟨.notReady, [FreezeCause.resetPending.byte]⟩
  else none

/-- FREEZE (R152). A stage whose age came to its threshold first has been reached by the tick that
brought it there (R174). -/
def State.freeze (s : State) : State × Response :=
  if s.committing then (s, ⟨.busy, [FreezeCause.engineBusy.byte]⟩)
  else (s.withEngine { s.engine with frozen := true }, ⟨.ok, [FreezeCause.none.byte]⟩)

def execFreeze (form : Byte) (s : State) : Host.Outcome State Fault Refusal :=
  .next (linkCommand (.freeze form) freezeReadiness State.freeze s)

/-- THAW: the stages that a setting change has made due are reached, and the oldest READY entry is taken
(R153, R167, R174). The order of the comparisons, and the one take after the last, are log entry 13. -/
def State.thaw (s : State) : State × Response :=
  if s.engine.frozen then
    (((s.withEngine { s.engine with frozen := false }).reachAllStages).proceed, .bare .ok)
  else (s, .bare .ok)

def execThaw (form : Byte) (s : State) : Host.Outcome State Fault Refusal :=
  .next (hostCommand (.thaw form) State.thaw s)

end Sys2Proof.Machine
end

