-- ==== Sys2Proof/Machine/Lookups.lean ====
section
/-! DEFINITION. The lookup commands: READ ITEM, READ SEGMENTS, ENUMERATE, FIND CARRIER (chapters 1 and
2), and LOCATE (chapter 4). -/

namespace Sys2Proof.Machine

/-! ### READ ITEM -/

/-- What READ ITEM answers (R16). -/
def State.readItem (s : State) (accession : Nat) : Response :=
  match s.record? accession with
  | none => .bare .notFound
  | some r =>
    ⟨.ok, (headerOfRecord r (s.index.useCount accession) (s.index.isPending accession)).bytes⟩

def execReadItem (form : Byte) (accession : BitVec 24) (s : State) :
    Host.Outcome State Fault Refusal :=
  .next (hostQuery (.readItem form accession) (fun s => s.readItem accession.toNat) s)

/-! ### READ SEGMENTS -/

/-- The segments of a list from `first` on, at most `maximum`, each with its position (R39). -/
def segmentsFrom (segments : List Segment) (first maximum : Nat) : List (Nat × Segment) :=
  (((segments.zipIdx).drop first).take maximum).map fun x => (x.2, x.1)

/-- What READ SEGMENTS answers (R39). -/
def State.readSegments (s : State) (accession : Nat) (first maximum : Byte) : Response :=
  if 64 < maximum.toNat ∨ 63 < first.toNat then .malformedArguments
  else
    match s.record? accession with
    | none => .bare .notFound
    | some r =>
      let listed := segmentsFrom r.segments first.toNat (countArgument maximum 64)
      ⟨.ok, [r.state.byte] ++ bytesOf 5 r.duration ++ bytesOf 2 r.revision.toNat
        ++ bytesOf 1 r.segments.length ++ bytesOf 1 listed.length
        ++ listed.flatMap fun x => bytesOf 1 x.1 ++ (wireOfSegment x.2).bytes⟩

def execReadSegments (form : Byte) (accession : BitVec 24) (first maximum : Byte) (s : State) :
    Host.Outcome State Fault Refusal :=
  .next (hostQuery (.readSegments form accession first maximum)
    (fun s => s.readSegments accession.toNat first maximum) s)

/-! ### ENUMERATE -/

/-- Whether a state mask names a record state; a mask naming none of the three selects all (R17, R211). -/
def maskNames (mask : Byte) (state : RecordState) : Bool :=
  let named (b : Nat) : Bool := mask.getLsbD b
  if named 0 || named 1 || named 2 then
    match state with
    | .active => named 0
    | .certified => named 1
    | .withdrawn => named 2
  else true

/-- The records ENUMERATE may list, in the accession index's order (R13, R17). -/
def State.enumerated (s : State) (start : Nat) (mask : Byte) : List ItemRecord :=
  (s.index.entries.filterMap fun e => s.record? e.accession).filter fun r =>
    decide (start ≤ r.accession) && maskNames mask r.state

/-- What ENUMERATE answers (R17). -/
def State.enumerate (s : State) (start : Nat) (mask maximum : Byte) : Response :=
  if 32 < maximum.toNat then .malformedArguments
  else
    let found := s.enumerated start mask
    let listed := found.take (countArgument maximum 32)
    let further := found.drop (countArgument maximum 32)
    ⟨.ok, bytesOf 2 s.store.records.length ++ bytesOf 2 s.index.vacantSlots
      ++ bytesOf 3 s.index.freeSegments ++ bytesOf 1 listed.length
      ++ [yesNo (!further.isEmpty)] ++ bytesOf 3 ((further.head?.map (·.accession)).getD 0)
      ++ listed.flatMap fun r =>
        bytesOf 3 r.accession ++ [r.state.byte] ++ bytesOf 2 r.revision.toNat⟩

def execEnumerate (form : Byte) (start : BitVec 24) (mask maximum : Byte) (s : State) :
    Host.Outcome State Fault Refusal :=
  .next (hostQuery (.enumerate form start mask maximum)
    (fun s => s.enumerate start.toNat mask maximum) s)

/-! ### FIND CARRIER -/

/-- Whether an entry lies at or above a start point: side, then track, then accession (R18). -/
def CarrierKey.atOrAbove (k : CarrierKey) (side track accession : Nat) : Bool :=
  !k.before ⟨k.carrierId, side, track, accession⟩

/-- The records whose carrier index entries are hits, in the index's order (R18). -/
def State.carrierHits (s : State) (carrierId : Nat) (kind : Option CarrierKind)
    (side track accession : Nat) : List ItemRecord :=
  ((s.index.carriers.filter fun k =>
      decide (k.carrierId = carrierId) && k.atOrAbove side track accession).filterMap
    fun k => s.record? k.accession).filter fun r =>
      match kind with
      | none => true
      | some k => r.carrierKind == k

/-- What FIND CARRIER answers (R18). -/
def State.findCarrier (s : State) (carrierId : Nat) (kindFilter side track : Byte)
    (accession : Nat) (maximum : Byte) : Response :=
  if 16 < maximum.toNat ∨ 7 < kindFilter.toNat ∨ 15 < side.toNat then .malformedArguments
  else
    let found := s.carrierHits carrierId (CarrierKind.ofByte kindFilter) side.toNat track.toNat accession
    let listed := found.take (countArgument maximum 16)
    let further := found.drop (countArgument maximum 16)
    ⟨.ok, bytesOf 1 listed.length ++ [yesNo (!further.isEmpty)]
      ++ (match further.head? with
        | none => [0, 0, 0, 0, 0]
        | some r => bytesOf 1 r.side ++ bytesOf 1 r.track ++ bytesOf 3 r.accession)
      ++ listed.flatMap fun r =>
        bytesOf 1 r.side ++ bytesOf 1 r.track ++ bytesOf 3 r.accession
          ++ [r.carrierKind.byte, r.state.byte]⟩

def execFindCarrier (form : Byte) (carrierId : BitVec 32) (kindFilter startSide startTrack : Byte)
    (startAccession : BitVec 24) (maximum : Byte) (s : State) : Host.Outcome State Fault Refusal :=
  .next (hostQuery
    (.findCarrier form carrierId kindFilter startSide startTrack startAccession maximum)
    (fun s => s.findCarrier carrierId.toNat kindFilter startSide startTrack startAccession.toNat maximum)
    s)

/-! ### Descriptors -/

/-- The record a FETCH returns, and a LOCATE answer in the same layout (R97, R98, R213). `lead` is the
cursor number of a FETCH and the depth of a LOCATE. -/
structure Descriptor where
  lead : Nat := 0
  sequence : BitVec 16 := 0#16
  kind : DescriptorKind
  wrapped : Bool := false
  copyChanged : Bool := false
  indexClamped : Bool := false
  gainClamped : Bool := false
  positionClamped : Bool := false
  yield : Bool := false
  rebuilt : Bool := false
  segmentEnd : Bool := false
  fault : Option FaultCode := none
  topStart : Nat := 0
  length : Nat := 0
  leafAccession : Nat := 0
  leafSegment : Nat := 0
  copy : Option Copy := none
  volume : Nat := 0
  file : Nat := 0
  byteOffset : Nat := 0
  indexStart : Nat := 0
  count : Nat := 0
  frameBytes : Nat := 0
  rate : Nat := 0
  gain : Int := 0
  deriving DecidableEq, Repr

/-- The 52 bytes of a descriptor (R213). -/
def Descriptor.bytes (d : Descriptor) : List Byte :=
  bytesOf 1 d.lead ++ bytesOf 2 d.sequence.toNat ++ [d.kind.byte]
    ++ [flagByte [d.wrapped, d.copyChanged, d.indexClamped, d.gainClamped, d.positionClamped,
        d.yield, d.rebuilt, d.segmentEnd]]
    ++ [faultByte d.fault] ++ bytesOf 5 d.topStart ++ bytesOf 5 d.length
    ++ bytesOf 3 d.leafAccession ++ bytesOf 1 d.leafSegment ++ [copyByte d.copy]
    ++ bytesOf 1 d.volume ++ bytesOf 3 d.file ++ bytesOf 6 d.byteOffset ++ bytesOf 6 d.indexStart
    ++ bytesOf 6 d.count ++ bytesOf 1 d.frameBytes ++ bytesOf 3 d.rate ++ signedBytesOf 2 d.gain
    ++ [0, 0, 0]

/-- What a path's last frame stands in: a TRANSFER or LACUNA segment, or no segment (R43, R62). -/
inductive Leaf where
  | transfer (frame : PathFrame) (segment : Segment) (data : Transfer)
  | lacuna (frame : PathFrame) (segment : Segment)
  | overhang (frame : PathFrame)
  deriving DecidableEq, Repr

/-- The leaf of a path. A last frame in a REFERENCE segment is left standing by no rule (R62) and is
read as holding no leaf segment: log entry 24. -/
def leafOf (records : List ItemRecord) (path : List PathFrame) : Leaf :=
  let f := path.getLastD ⟨0, 0#16, 0, 0, false⟩
  match f.segmentIn records with
  | some ⟨start, length, .transfer trim t⟩ => .transfer f ⟨start, length, .transfer trim t⟩ t
  | some ⟨start, length, .lacuna⟩ => .lacuna f ⟨start, length, .lacuna⟩
  | _ => .overhang f

/-- The position within a leaf segment of a top position (R44, R49). -/
def deltaIn (f : PathFrame) (g : Segment) (p : Nat) : Nat :=
  (f.localAt p - g.start).toNat

/-! ### LOCATE -/

/-- The answer of a resolved LOCATE, with its raw gain sum (R78). -/
def State.locateAnswer (s : State) (path : List PathFrame) (p : Nat) : Descriptor :=
  let depth := path.length
  let raw := rawGain s.store.records 0 path
  match leafOf s.store.records path with
  | .overhang f => { lead := depth, kind := .gap, topStart := p, leafAccession := f.accession,
                     leafSegment := f.segment }
  | .lacuna f _ => { lead := depth, kind := .gap, topStart := p, leafAccession := f.accession,
                     leafSegment := f.segment }
  | .transfer f g t =>
    let delta := deltaIn f g p
    if t.count ≤ t.index delta then
      { lead := depth, kind := .gap, topStart := p, leafAccession := f.accession,
        leafSegment := f.segment, indexClamped := t.clampsAt delta }
    else
      let base : Descriptor :=
        { lead := depth, kind := .unavailable, topStart := p, leafAccession := f.accession,
          leafSegment := f.segment, indexStart := t.clampedIndex delta, frameBytes := t.frameBytes,
          rate := t.rate, gain := saturateGain raw, gainClamped := gainHigh raw || gainLow raw }
      match t.chooseCopy s.volumes .primaryFirst with
      | none => base
      | some (c, q) =>
        { base with
          kind := .audio, copy := some c, volume := q.volume.val, file := q.file,
          byteOffset := t.byteOffset q (t.clampedIndex delta) }

/-- The condition a LOCATE answer sets below the end (R55). -/
def DescriptorKind.condition : DescriptorKind → Condition
  | .audio => .within
  | .gap => .gap
  | .end_ => .above
  | .unavailable => .none
  | .detached => .none
  | .faulted => .none

/-- The sticky flags a descriptor calls for, given its raw gain sum (R53, R55). -/
def Descriptor.sticky (d : Descriptor) (raw : Int) (clamped : Bool) : Sticky where
  position := clamped || d.positionClamped
  index := d.indexClamped
  gainHigh := d.gainClamped && gainHigh raw
  gainLow := d.gainClamped && gainLow raw

/-- A LOCATE whose position has passed R58: resolved as a build would be, on a path of its own that
meets no deferral entry (R77, R78). -/
def State.locateAt (s : State) (form : Byte) (r : ItemRecord) (clearance : Nat) (pl : Placing) :
    State × Response :=
  let w := buildPath ⟨s.store.records, clearance, fun _ => .none⟩ r.accession pl.position
  let answered (d : Descriptor) (raw : Int) : State × Response :=
    (s.noteCondition form
      (if pl.position = r.duration then .above else d.kind.condition) (d.sticky raw pl.clamped),
      ⟨.ok, d.bytes⟩)
  match w.stop with
  | some (.fault .restrictedTarget) => (s, .bare .restricted)
  | some (.fault code) =>
    answered { lead := w.path.length, kind := .faulted, topStart := pl.position, fault := some code } 0
  | some .detached | none =>
    if pl.position = r.duration then
      answered { lead := 1, kind := .end_, topStart := pl.position, leafAccession := r.accession,
                 leafSegment := r.segments.length } 0
    else answered (s.locateAnswer w.path pl.position) (rawGain s.store.records 0 w.path)

/-- What LOCATE does and answers, after the readiness check (R77). -/
def State.locate (s : State) (form : Byte) (accession : Nat) (position : BitVec 40)
    (clearance : Byte) : State × Response :=
  if 7 < clearance.toNat ∨ Config.maxPosition < position.toNat then (s, .malformedArguments)
  else
    match s.record? accession with
    | none => (s, .bare .notFound)
    | some r =>
      if r.state = .withdrawn then (s, ⟨.withdrawn, bytesOf 3 (r.successor.getD 0)⟩)
      else if clearance.toNat < r.restriction then (s, .bare .restricted)
      else
        match placeTarget (strictForm form) position.toNat r.duration with
        | .error c => (s.noteCondition form c Sticky.none, .bare .range)
        | .ok pl => s.locateAt form r clearance.toNat pl

def execLocate (form : Byte) (accession : BitVec 24) (position : BitVec 40) (clearance : Byte)
    (s : State) : Host.Outcome State Fault Refusal :=
  .next (hostCommand (.locate form accession position clearance)
    (fun s => s.locate form accession.toNat position clearance) s)

end Sys2Proof.Machine
end

