-- ==== Sys2Proof/Machine/Cursors.lean ====
section
/-! DEFINITION. The cursor commands: OPEN CURSOR, SEEK, SET LOOP, CLEAR LOOP, FETCH, CLOSE CURSOR, READ
CURSOR (chapter 5). -/

namespace Sys2Proof.Machine

/-- The notice a stopped walk raises for its cursor (R68, R100, R106). -/
def State.raiseStop (s : State) (n : Fin 16) (stop : Option Stop) : State :=
  match stop with
  | none => s
  | some (.fault _) => s.raise (.cursorFaulted n)
  | some .detached => s.raise (.cursorDetached n)

/-- A cursor command whose number and arguments are in range, on the cursor it names; MALFORMED
otherwise (R82). -/
def onCursor (cursor : Byte) (inRange : Bool) (body : Fin 16 → State → State × Response)
    (s : State) : State × Response :=
  match cursorOf cursor with
  | none => (s, .malformedArguments)
  | some n => if inRange then body n s else (s, .malformedArguments)

/-! ### OPEN CURSOR -/

/-- The argument checks of OPEN CURSOR (R83). -/
def openInRange (position : BitVec 40) (chunk : BitVec 24) (clearance preference : Byte)
    (trim : BitVec 16) : Bool :=
  decide (position.toNat ≤ Config.maxPosition)
    && decide (chunk.toNat = 0 ∨ (Config.minSpan ≤ chunk.toNat ∧ chunk.toNat ≤ Config.maxChunk))
    && decide (clearance.toNat ≤ 7) && (CopyPreference.ofByte preference).isSome
    && trimInRange trim.toInt

/-- The context an accepted OPEN CURSOR sets, before its path is built (R85). -/
def openedContext (accession position chunk clearance : Nat) (preference : CopyPreference)
    (trim : Int) : Cursor :=
  { Cursor.closed with
    top := accession, position := position, chunk := chunk, clearance := clearance,
    preference := preference, trim := trim }

/-- The answer of an accepted OPEN CURSOR (R84, R211). -/
def openAnswer (c : Cursor) : Response :=
  ⟨.ok, [c.state.byte] ++ bytesOf 5 c.position ++ bytesOf 3 c.chunk ++ [faultByte c.fault]⟩

/-- OPEN CURSOR with its arguments in range (R84, R85). -/
def State.openCursor (s : State) (form : Byte) (accession : Nat) (position chunk clearance : Nat)
    (preference : CopyPreference) (trim : Int) (n : Fin 16) : State × Response :=
  if (s.cursors.get n).state ≠ .closed then (s, .bare .cursorState)
  else
    match s.record? accession with
    | none => (s, .bare .notFound)
    | some r =>
      if r.state = .withdrawn then (s, ⟨.withdrawn, bytesOf 3 (r.successor.getD 0)⟩)
      else if clearance < r.restriction then (s, .bare .restricted)
      else
        match placeTarget (strictForm form) position r.duration with
        | .error c => (s.noteCondition form c Sticky.none, .bare .range)
        | .ok pl =>
          let chunk := if chunk = 0 then s.settings.defaultChunk else chunk
          let w := buildPath (s.view clearance) accession pl.position
          let opened := (openedContext accession pl.position chunk clearance preference trim).placed w
            r.duration
          ((((s.setCursor n opened).raiseStop n w.stop).noteCondition form pl.condition
            (Sticky.ofPosition pl.clamped)).settleAndProceed, openAnswer opened)

def execOpenCursor (form cursor : Byte) (accession : BitVec 24) (position : BitVec 40)
    (chunk : BitVec 24) (clearance preference : Byte) (trim : BitVec 16) (s : State) :
    Host.Outcome State Fault Refusal :=
  .next (hostCommand (.openCursor form cursor accession position chunk clearance preference trim)
    (onCursor cursor (openInRange position chunk clearance preference trim) fun n s =>
      s.openCursor form accession.toNat position.toNat chunk.toNat clearance.toNat
        ((CopyPreference.ofByte preference).getD .primaryFirst) trim.toInt n)
    s)

/-! ### SEEK -/

/-- Whether a seek's kind is one of the three and an ABSOLUTE value in its range (R57). -/
def seekInRange (kind : Byte) (value : BitVec 40) : Bool := (seekTarget kind value 0).isSome

/-- The answer of an accepted SEEK (R86, R211). -/
def seekAnswer (c : Cursor) : Response :=
  ⟨.ok, [c.state.byte] ++ bytesOf 5 c.position ++ [faultByte c.fault]⟩

/-- A cursor whose seek has passed its checks: at its new position, with pending-wrap and the clamp
note cleared and no last copy (R86). -/
def Cursor.sought (c : Cursor) (position : Nat) : Cursor :=
  { c with position := position, pendingWrap := false, clampNote := false, lastCopy := none }

/-- SEEK with its arguments in range (R86, R87). With no record at the top accession the position stays
and the build faults MISSING_TARGET. -/
def State.seek (s : State) (form kind : Byte) (value : BitVec 40) (n : Fin 16) : State × Response :=
  let c := s.cursors.get n
  if c.state = .closed ∨ c.state = .detached then (s, .bare .cursorState)
  else
    match s.record? c.top with
    | none =>
      let w := buildPath (s.view c.clearance) c.top c.position
      let landed := (c.sought c.position).landed w
      ((((s.setCursor n landed).raiseStop n w.stop).noteCondition form .none Sticky.none).settleAndProceed,
        seekAnswer landed)
    | some r =>
      match placeTarget (strictForm form) ((seekTarget kind value c.position).getD 0) r.duration with
      | .error side => (s.noteCondition form side Sticky.none, .bare .range)
      | .ok pl =>
        let w := buildPath (s.view c.clearance) c.top pl.position
        let landed := (c.sought pl.position).placed w r.duration
        ((((s.setCursor n landed).raiseStop n w.stop).noteCondition form pl.condition
          (Sticky.ofPosition pl.clamped)).settleAndProceed, seekAnswer landed)

def execSeek (form cursor kind : Byte) (value : BitVec 40) (s : State) :
    Host.Outcome State Fault Refusal :=
  .next (hostCommand (.seek form cursor kind value)
    (onCursor cursor (seekInRange kind value) fun n s => s.seek form kind value n) s)

/-! ### Loops -/

/-- SET LOOP with its arguments in range (R59, R88). -/
def State.setLoop (s : State) (form : Byte) (start length : Nat) (n : Fin 16) : State × Response :=
  let c := s.cursors.get n
  if c.state = .closed ∨ c.state = .detached then (s, .bare .cursorState)
  else
    match s.record? c.top with
    | none => (s, .bare .notFound)
    | some r =>
      match placeLoop (strictForm form) start length r.duration with
      | .error side => (s.noteCondition form side Sticky.none, .bare .range)
      | .ok pl =>
        ((s.setCursor n { c with loop := some pl.region }).noteCondition form
            (if pl.clamped then .above else .within) (Sticky.ofPosition pl.clamped),
          ⟨.ok, bytesOf 5 pl.region.start ++ bytesOf 5 pl.region.stop⟩)

def execSetLoop (form cursor : Byte) (start length : BitVec 40) (s : State) :
    Host.Outcome State Fault Refusal :=
  .next (hostCommand (.setLoop form cursor start length)
    (onCursor cursor
      (decide (start.toNat ≤ Config.maxPosition ∧ length.toNat ≤ Config.maxPosition))
      fun n s => s.setLoop form start.toNat length.toNat n) s)

/-- CLEAR LOOP (R88). -/
def State.clearLoop (s : State) (n : Fin 16) : State × Response :=
  let c := s.cursors.get n
  if c.state = .closed ∨ c.state = .detached then (s, .bare .cursorState)
  else (s.setCursor n { c with loop := none }, .bare .ok)

def execClearLoop (form cursor : Byte) (s : State) : Host.Outcome State Fault Refusal :=
  .next (hostCommand (.clearLoop form cursor)
    (onCursor cursor true fun n s => s.clearLoop n) s)

/-! ### FETCH -/

/-- The loop region that applies at a FETCH, against the top item's duration (R47). -/
def Cursor.applyingLoop (c : Cursor) (duration : Nat) : Option LoopRegion :=
  c.loop.filter fun l => decide (l.stop ≤ duration ∧ c.position < l.stop)

/-- The ends of the segments in use along a path, translated to top level; a frame at end has none
(R46, R48). -/
def segmentEnds (records : List ItemRecord) (path : List PathFrame) : List Nat :=
  path.filterMap fun f =>
    (f.segmentIn records).map fun g => ((g.start + g.length : Nat) + f.displacement).toNat

/-- The span end: the least candidate of R46 and R48. -/
def Cursor.spanEnd (c : Cursor) (records : List ItemRecord) (duration : Nat) : Nat :=
  ((c.applyingLoop duration).toList.map (·.stop) ++ segmentEnds records c.path).foldl min
    (min (c.position + c.chunk) duration)

/-- The translated end of a leaf segment (R46). -/
def leafEnd (f : PathFrame) (g : Segment) : Int := (g.start + g.length : Nat) + f.displacement

/-- The descriptor of the span from the cursor's position to `stop`, without the flags that come from
the cursor's context (R92, R97). -/
def Cursor.spanDescriptor (c : Cursor) (records : List ItemRecord) (volumes : Table Volume 64)
    (stop : Nat) : Descriptor :=
  let span := stop - c.position
  let raw := rawGain records c.trim c.path
  match leafOf records c.path with
  | .overhang f =>
    { kind := .gap, topStart := c.position, length := span, leafAccession := f.accession,
      leafSegment := f.segment }
  | .lacuna f g =>
    { kind := .gap, topStart := c.position, length := span, leafAccession := f.accession,
      leafSegment := f.segment, segmentEnd := decide ((stop : Int) = leafEnd f g) }
  | .transfer f g t =>
    let first := t.clampedIndex (deltaIn f g c.position)
    let last := t.clampedIndex (deltaIn f g stop)
    let gap : Descriptor :=
      { kind := .gap, topStart := c.position, length := span, leafAccession := f.accession,
        leafSegment := f.segment, indexClamped := t.clampsAt (deltaIn f g stop),
        segmentEnd := decide ((stop : Int) = leafEnd f g) }
    if last - first = 0 then gap
    else
      let unavailable : Descriptor :=
        { gap with
          kind := .unavailable, indexStart := first, count := last - first,
          frameBytes := t.frameBytes, rate := t.rate, gain := saturateGain raw,
          gainClamped := gainHigh raw || gainLow raw }
      match t.chooseCopy volumes c.preference with
      | none => unavailable
      | some (copy, q) =>
        { unavailable with
          kind := DescriptorKind.audio, copy := some copy, volume := q.volume.val, file := q.file,
          byteOffset := t.byteOffset q first, copyChanged := decide (c.lastCopy ≠ some copy) }

/-- A FETCH's outcome: the cursor after it, the descriptor, what stopped its path work, whether it
stalled the cursor, and the raw gain sum behind the descriptor. -/
structure FetchResult where
  cursor : Cursor
  descriptor : Descriptor
  stop : Option Stop
  stalled : Bool
  raw : Int
  deriving DecidableEq, Repr

/-- The fields every descriptor of a cursor carries (R97, R98). -/
def Descriptor.stamped (d : Descriptor) (n : Fin 16) (c : Cursor) (rebuilt : Bool) : Descriptor :=
  { d with lead := n.val, sequence := c.sequence, yield := c.yieldFlag, rebuilt := rebuilt }

/-- The move after an AUDIO or GAP descriptor for a span that ends at `stop`: a wrap, the end, or on
(R94). -/
def Cursor.moved (c : Cursor) (v : PathView) (duration stop : Nat) : Cursor × Option Stop :=
  match (c.applyingLoop duration).filter fun l => decide (l.stop = stop) with
  | some l =>
    let w := buildPath v c.top l.start
    let landed := { c with position := l.start, lastCopy := none, pendingWrap := true }.landed w
    (if w.stop.isSome then landed else { landed with state := landed.playing }, w.stop)
  | none =>
    let w := advancePath v c.path stop
    let landed := { c with position := stop }.landed w
    (if w.stop.isSome then landed
      else { landed with state := if stop = duration then .ended else landed.playing }, w.stop)

/-- The END descriptor, and the cursor ENDED with its clamp note and pending-wrap reported and cleared
(R91, R95). -/
def Cursor.fetchEnd (c : Cursor) (n : Fin 16) (rebuilt : Bool) (duration segmentCount : Nat) :
    FetchResult where
  cursor := { c with state := .ended, clampNote := false, pendingWrap := false }
  descriptor := ({
    kind := .end_, topStart := duration, leafAccession := c.top, leafSegment := segmentCount,
    wrapped := c.pendingWrap, positionClamped := c.clampNote } : Descriptor).stamped n c rebuilt
  stop := none
  stalled := false
  raw := 0

/-- A FETCH whose path is current, or has just been rebuilt, below the top item's end (R92 to R96). -/
def Cursor.fetchSpan (c : Cursor) (v : PathView) (volumes : Table Volume 64) (n : Fin 16)
    (rebuilt : Bool) (duration : Nat) : FetchResult :=
  let stop := c.spanEnd v.records duration
  let d : Descriptor := (c.spanDescriptor v.records volumes stop).stamped n c rebuilt
  let raw := rawGain v.records c.trim c.path
  if d.kind = DescriptorKind.unavailable then
    ⟨{ c with state := .stalled }, d, none, decide (c.state ≠ .stalled), raw⟩
  else
    let delivered := { c with
      pendingWrap := false
      lastCopy := if d.kind = DescriptorKind.audio then d.copy else c.lastCopy }
    let moved := delivered.moved v duration stop
    ⟨moved.1, { d with wrapped := c.pendingWrap }, moved.2, false, raw⟩

/-- A FETCH after its revision check: END at the item's end, and otherwise the span (R91, R92). -/
def Cursor.fetchCurrent (c : Cursor) (v : PathView) (volumes : Table Volume 64) (n : Fin 16)
    (rebuilt : Bool) : FetchResult :=
  let duration := ((findRecord v.records c.top).map (·.duration)).getD 0
  let segmentCount := ((findRecord v.records c.top).map (·.segments.length)).getD 0
  if duration ≤ c.position then c.fetchEnd n rebuilt duration segmentCount
  else c.fetchSpan v volumes n rebuilt duration

/-- The descriptor of a cursor that holds no path (R89, R97). -/
def Cursor.stoppedDescriptor (c : Cursor) (n : Fin 16) (rebuilt : Bool) (kind : DescriptorKind) :
    Descriptor :=
  ({ kind := kind, topStart := c.position, fault := c.fault } : Descriptor).stamped n c rebuilt

/-- A FETCH of a cursor that is not CLOSED, its sequence already raised (R89, R90). -/
def Cursor.fetched (c : Cursor) (v : PathView) (volumes : Table Volume 64) (n : Fin 16) :
    FetchResult :=
  if c.state = .detached then
    ⟨c, { c.stoppedDescriptor n false .detached with fault := none }, none, false, 0⟩
  else if c.state = .faulted then ⟨c, c.stoppedDescriptor n false .faulted, none, false, 0⟩
  else if pathCurrent v.records c.path then c.fetchCurrent v volumes n false
  else
    let w := buildPath v c.top c.position
    let rebuilt := { c with lastCopy := none }.landed w
    match w.stop with
    | some (.fault _) => ⟨rebuilt, rebuilt.stoppedDescriptor n true .faulted, w.stop, false, 0⟩
    | some .detached => ⟨rebuilt, rebuilt.stoppedDescriptor n true .detached, w.stop, false, 0⟩
    | none => rebuilt.fetchCurrent v volumes n true

/-- FETCH (R89). -/
def State.fetch (s : State) (form : Byte) (n : Fin 16) : State × Response :=
  let c := s.cursors.get n
  if c.state = .closed then (s, .bare .cursorState)
  else
    let r := { c with sequence := c.sequence + 1#16 }.fetched (s.view c.clearance) s.volumes n
    let t := (s.setCursor n r.cursor).raiseStop n r.stop
    let t := if r.stalled then t.raise (.cursorStalled n) else t
    ((t.noteCondition form r.descriptor.kind.condition
        (r.descriptor.sticky r.raw false)).settleAndProceed,
      ⟨.ok, r.descriptor.bytes⟩)

def execFetch (form cursor : Byte) (s : State) : Host.Outcome State Fault Refusal :=
  .next (hostCommand (.fetch form cursor) (onCursor cursor true fun n s => s.fetch form n) s)

/-! ### Closing and reading -/

/-- CLOSE CURSOR (R104). -/
def State.closeCursor (s : State) (n : Fin 16) : State × Response :=
  if (s.cursors.get n).state = .closed then (s, .bare .cursorState)
  else ((s.setCursor n Cursor.closed).settleAndProceed, .bare .ok)

def execCloseCursor (form cursor : Byte) (s : State) : Host.Outcome State Fault Refusal :=
  .next (hostCommand (.closeCursor form cursor)
    (onCursor cursor true fun n s => s.closeCursor n) s)

/-- One path frame as READ CURSOR reports it (R105, R211). -/
def PathFrame.bytes (f : PathFrame) : List Byte :=
  bytesOf 3 f.accession ++ bytesOf 2 f.revisionSeen.toNat ++ bytesOf 1 f.segment
    ++ signedBytesOf 6 f.displacement ++ [yesNo f.viaSuccessor]

/-- A cursor context as READ CURSOR reports it (R105, R211). -/
def Cursor.bytes (c : Cursor) : List Byte :=
  [c.state.byte] ++ bytesOf 3 c.top ++ bytesOf 5 c.position ++ bytesOf 3 c.chunk
    ++ bytesOf 1 c.clearance ++ [c.preference.byte] ++ signedBytesOf 2 c.trim
    ++ [yesNo c.loop.isSome] ++ bytesOf 5 ((c.loop.map (·.start)).getD 0)
    ++ bytesOf 5 ((c.loop.map (·.stop)).getD 0) ++ [copyByte c.lastCopy]
    ++ bytesOf 2 c.sequence.toNat ++ [yesNo c.yieldFlag, faultByte c.fault, yesNo c.pendingWrap,
      yesNo c.clampNote]
    ++ bytesOf 1 c.path.length ++ c.path.flatMap PathFrame.bytes

def execReadCursor (form cursor : Byte) (s : State) : Host.Outcome State Fault Refusal :=
  .next (hostCommand (.readCursor form cursor)
    (onCursor cursor true fun n s => (s, ⟨.ok, (s.cursors.get n).bytes⟩)) s)

end Sys2Proof.Machine
end

