-- ==== Sys2Proof/Machine/Volumes.lean ====
section
/-! DEFINITION. The volume monitor: the five volume commands, READ VOLUMES, and the expiry of the four
intervals (chapter 6). -/

namespace Sys2Proof.Machine

/-! ### The table -/

/-- A volume's live policy settings (R108). -/
def State.policyOf (s : State) (v : Fin 64) : VolumePolicy := s.settings.policies.get v

/-- The live figure of an interval (R109). -/
def Settings.interval (st : Settings) : Interval → Nat
  | .tFwin => st.tFwin
  | .tPwait => st.tPwait
  | .tPto => st.tPto
  | .tStable => st.tStable

/-- A volume's timer started with an interval's live figure, discarding what remained (R110). -/
def Volume.start (e : Volume) (st : Settings) (i : Interval) : Volume :=
  { e with timer := .running i (st.interval i) }

/-- Entry into FAILED: tPWAIT started, the fault count kept (R115, R119 to R122). -/
def Volume.fail (e : Volume) (st : Settings) : Volume :=
  { e with health := .failed }.start st .tPwait

/-- Entry into PROBING: tPTO started (R117, R118). -/
def Volume.probe (e : Volume) (st : Settings) : Volume :=
  { e with health := .probing }.start st .tPto

/-- Entry into SETTLING: tSTABLE started (R119). -/
def Volume.observe (e : Volume) (st : Settings) : Volume :=
  { e with health := .settling }.start st .tStable

/-- An ONLINE volume with nothing counted (R112, R121, R123). -/
def Volume.clean : Volume := ⟨.online, 0, .idle⟩

/-- A volume move: the entry it leaves and the notice it raises. -/
structure VolumeMove where
  entry : Volume
  notice : Option Notice
  deriving DecidableEq, Repr

def VolumeMove.quiet (e : Volume) : VolumeMove := ⟨e, none⟩

/-- A move made on a volume's entry: the entry replaced, and its notice raised (R124). -/
def State.moveVolume (s : State) (v : Fin 64) (m : VolumeMove) : State :=
  let t := s.setVolume v m.entry
  match m.notice with
  | none => t
  | some x => t.raise x

/-! ### The volume commands -/

/-- Health, fault count and timer as the volume commands answer them (R114, R211). -/
def Volume.bytes (e : Volume) : List Byte :=
  [e.health.byte] ++ bytesOf 1 e.faultCount ++ [e.timer.intervalByte] ++ bytesOf 4 e.timer.remaining

/-- A volume command in the order of checks of R114; `move` is the command's own rule, `none` where it
does not admit the volume's health. -/
def State.volumeCommand (s : State) (volume : Byte) (inRange : Bool)
    (move : Fin 64 → Volume → Option VolumeMove) : State × Response :=
  match volumeOf volume with
  | none => (s, .malformedArguments)
  | some v =>
    if inRange then
      if (s.volumes.get v).health = .unregistered then (s, .bare .volumeUnknown)
      else
        match move v (s.volumes.get v) with
        | none => (s, .bare .volumeState)
        | some m => (s.moveVolume v m, ⟨.ok, m.entry.bytes⟩)
    else (s, .malformedArguments)

/-- REPORT FAULT (R115, R117, R119, R121). An UNREGISTERED volume is refused before this. -/
def reportFaultMove (st : Settings) (v : Fin 64) (e : Volume) : Option VolumeMove :=
  match e.health with
  | .unregistered => none
  | .online =>
    let counted := { e with faultCount := e.faultCount + 1 }
    if st.faultThreshold ≤ counted.faultCount then some ⟨counted.fail st, some (.volumeFailed v)⟩
    else some (.quiet (counted.start st .tFwin))
  | .failed => some (.quiet e)
  | .probing => some ⟨e.fail st, some (.volumeFailed v)⟩
  | .settling => some ⟨e.fail st, some (.volumeFailed v)⟩

/-- PROBE RESULT (R119). -/
def probeResultMove (st : Settings) (good : Bool) (v : Fin 64) (e : Volume) : Option VolumeMove :=
  match e.health with
  | .probing =>
    if good then some (.quiet (e.observe st)) else some ⟨e.fail st, some (.volumeFailed v)⟩
  | .unregistered | .online | .failed | .settling => none

/-- PROBE VOLUME (R118). -/
def probeVolumeMove (st : Settings) (e : Volume) : Option VolumeMove :=
  match e.health with
  | .failed => some (.quiet (e.probe st))
  | .unregistered | .online | .probing | .settling => none

def execReportFault (form volume : Byte) (s : State) : Host.Outcome State Fault Refusal :=
  .next (hostCommand (.reportFault form volume)
    (fun s => s.volumeCommand volume true (reportFaultMove s.settings)) s)

def execProbeResult (form volume result : Byte) (s : State) : Host.Outcome State Fault Refusal :=
  .next (hostCommand (.probeResult form volume result)
    (fun s => s.volumeCommand volume (decide (result.toNat = 1 ∨ result.toNat = 2))
      (probeResultMove s.settings (decide (result.toNat = 1)))) s)

def execProbeVolume (form volume : Byte) (s : State) : Host.Outcome State Fault Refusal :=
  .next (hostCommand (.probeVolume form volume)
    (fun s => s.volumeCommand volume true fun _ e => probeVolumeMove s.settings e) s)

/-- FAIL VOLUME: FAILED from every health but UNREGISTERED, with no notice (R122). -/
def execFailVolume (form volume : Byte) (s : State) : Host.Outcome State Fault Refusal :=
  .next (hostCommand (.failVolume form volume)
    (fun s => s.volumeCommand volume true fun _ e => some (.quiet (e.fail s.settings))) s)

/-- RESTORE VOLUME: ONLINE with nothing counted from every health but UNREGISTERED, with no notice
(R123). -/
def execRestoreVolume (form volume : Byte) (s : State) : Host.Outcome State Fault Refusal :=
  .next (hostCommand (.restoreVolume form volume)
    (fun s => s.volumeCommand volume true fun _ _ => some (.quiet Volume.clean)) s)

/-! ### READ VOLUMES -/

/-- One volume entry as READ VOLUMES reports it (R125, R211). -/
def State.volumeReport (s : State) (v : Fin 64) : List Byte :=
  bytesOf 1 v.val
    ++ [flagByte [(s.policyOf v).registered, (s.policyOf v).autoProbe, (s.policyOf v).autoReturn]]
    ++ (s.volumes.get v).bytes

/-- The volumes READ VOLUMES lists (R125). -/
def volumesListed (first maximum : Nat) : List (Fin 64) :=
  ((List.finRange 64).drop first).take maximum

/-- What READ VOLUMES answers (R125). -/
def State.readVolumes (s : State) (first maximum : Byte) : Response :=
  if 63 < first.toNat ∨ 64 < maximum.toNat then .malformedArguments
  else
    let listed := volumesListed first.toNat (countArgument maximum 64)
    ⟨.ok, bytesOf 1 listed.length ++ listed.flatMap s.volumeReport⟩

def execReadVolumes (form first maximum : Byte) (s : State) : Host.Outcome State Fault Refusal :=
  .next (hostQuery (.readVolumes form first maximum) (fun s => s.readVolumes first maximum) s)

/-! ### Expiries -/

/-- The expiry of an interval, by the rule for the volume's health (R110, R116, R117, R120, R121). An
interval that cannot run in a health leaves the timer idle. -/
def Volume.expire (e : Volume) (i : Interval) (st : Settings) (policy : VolumePolicy) (v : Fin 64) :
    VolumeMove :=
  match i, e.health with
  | .tFwin, .online => .quiet Volume.clean
  | .tPwait, .failed =>
    if policy.autoProbe then ⟨e.probe st, some (.volumeProbeRequest v)⟩
    else .quiet { e with timer := .idle }
  | .tPto, .probing => ⟨e.fail st, some (.volumeFailed v)⟩
  | .tStable, .settling =>
    if policy.autoReturn then ⟨Volume.clean, some (.volumeReturned v)⟩
    else .quiet { e with timer := .idle }
  | _, _ => .quiet { e with timer := .idle }

/-- An expiry event of one interval on one volume, taken when that interval has run to its end there
(R110; log entries 4 and 5). -/
def State.expire (s : State) (v : Fin 64) (i : Interval) : State :=
  if (s.volumes.get v).timer = .running i 0 then
    s.moveVolume v ((s.volumes.get v).expire i s.settings (s.policyOf v) v)
  else s

def execTfwinExpiry (volume : Fin 64) (s : State) : Host.Outcome State Fault Refusal :=
  .next (s.expire volume .tFwin)

def execTpwaitExpiry (volume : Fin 64) (s : State) : Host.Outcome State Fault Refusal :=
  .next (s.expire volume .tPwait)

def execTptoExpiry (volume : Fin 64) (s : State) : Host.Outcome State Fault Refusal :=
  .next (s.expire volume .tPto)

def execTstableExpiry (volume : Fin 64) (s : State) : Host.Outcome State Fault Refusal :=
  .next (s.expire volume .tStable)

end Sys2Proof.Machine
end

