-- ==== Sys2Proof/Machine/Events.lean ====
section
/-! DEFINITION. The events of the part: the frame's edges, the resets and the start-up scan, the store's
reports, the engine's take, the tick of the time base, and a stage reached. -/

namespace Sys2Proof.Machine

/-! ### The frame's edges -/

/-- SEL falls (R180). With SEL already low nothing falls: log entry 4. -/
def execFrameOpen (s : State) : Host.Outcome State Fault Refusal :=
  .next (if s.pins.selectLow then s else s.openFrame)

/-- SEL rises (R183). With SEL already high nothing rises: log entry 4. -/
def execFrameEnd (sampled : List Lanes) (s : State) : Host.Outcome State Fault Refusal :=
  .next (if s.pins.selectLow then s.endFrame sampled else s)

/-! ### Hard resets and the scan -/

/-- The store a hard reset finds: the change in flight is in force when its closing mark had been
written, and in no version when it had not (R11, R156). -/
def State.storeAtHardReset (s : State) (markWritten : Bool) : Store :=
  match s.engine.inFlight with
  | none => s.store
  | some f => if markWritten then f.change.applyStore s.store else s.store

/-- RESET_N falls or the supplies fail: no frame, and every block held at its reset state (R191; log
entry 22). -/
def State.hardReset (s : State) (markWritten : Bool) : State :=
  (State.startUp s.pending false (s.storeAtHardReset markWritten) s.openValues).withPins
    ⟨s.pins.selectLow, true⟩

def execHardReset (markWritten : Bool) (s : State) : Host.Outcome State Fault Refusal :=
  .next (s.hardReset markWritten)

/-- RESET_N rises with the supplies at operating level: the link set as R179 gives, and the scan begun
(R191, R208). -/
def execResetNRelease (s : State) : Host.Outcome State Fault Refusal :=
  .next (if s.pins.held then
    State.startUp s.pending s.pins.selectLow s.store s.openValues else s)

/-- The catalogue index as the scan leaves it: one entry a record with use count 0 and pending no, the
carrier index, and the free lists (R20, R22, R38). -/
def Index.scanned (store : Store) : Index where
  entries := entriesOf (Index.beforeScan store) store.records
  carriers := carriersOf store.records
  vacantSlots := (Index.beforeScan store).vacantSlots
  freeSegments := (Index.beforeScan store).freeSegments

/-- The start-up scan completes, and STARTED is raised (R20). -/
def State.scanComplete (s : State) : State :=
  ((s.withIndex (Index.scanned s.store)).withStarting false).raise .started

def execScanComplete (s : State) : Host.Outcome State Fault Refusal :=
  .next (if s.starting && !s.pins.held then s.scanComplete else s)

/-! ### The store and the engine -/

/-- The store reports the closing mark written (R144). -/
def execCommitComplete (s : State) : Host.Outcome State Fault Refusal :=
  .next (match s.engine.inFlight with
    | none => s
    | some f => s.complete f)

/-- The store reports a write failure (R146). -/
def execCommitStoreFault (s : State) : Host.Outcome State Fault Refusal :=
  .next (match s.engine.inFlight with
    | none => s
    | some f => s.failStore f)

/-- The engine takes the oldest READY entry (R148, R150; log entry 6). -/
def execTakeReadyEntry (s : State) : Host.Outcome State Fault Refusal :=
  .next s.proceed

/-! ### Time -/

/-- A timer's remaining time after a tick (R110). -/
def Timer.ticked : Timer → Timer
  | .idle => .idle
  | .running i remaining => .running i (remaining - 1)

def Volume.ticked (e : Volume) : Volume := { e with timer := e.timer.ticked }

/-- An entry's age after a tick: it rises by 1 in WAITING and stays at its greatest value (R165). -/
def Entry.ticked (e : Entry) : Entry :=
  if e.state = .waiting then { e with age := min (e.age + 1) Config.maxAge } else e

/-- The expiries that stand due taken, in ascending volume number, so that none is put off past the next
tick (log entries 5 and 13). -/
def State.takeExpiries (s : State) : State :=
  (List.finRange 64).foldl
    (fun t v =>
      match (t.volumes.get v).timer with
      | .running i 0 => t.expire v i
      | _ => t) s

/-- One millisecond counted: the millisecond count rises by 1, the timers count it, and so do the ages
while the engine is THAWED (R110, R111, R165, R174). -/
def State.count (s : State) : State :=
  let t := (s.withMilliseconds (s.milliseconds + 1)).withVolumes (s.volumes.map Volume.ticked)
  if t.engine.frozen then t else t.withQueue (t.queue.map Entry.ticked)

/-- The tick of the time base. The ages are compared with the thresholds as they rise, and a stage reached
is taken at that moment, before any row that follows (R167, R174). DESIGN CHOICE, log entry 13: the engine
takes once, after the last comparison, where R162 has it take at once and leaves open which of several
entries made READY in one tick it meets first. -/
def State.tick (s : State) : State := s.takeExpiries.count.reachAllStages.proceed

def execTimeBaseTick (s : State) : Host.Outcome State Fault Refusal :=
  .next (if s.pins.held then s else s.tick)

/-- The age of an entry has reached a threshold: the comparison of R167 made for that entry. Every step
that can make a stage due has made it already (log entry 5). -/
def execStageReached (accession : BitVec 24) (s : State) : Host.Outcome State Fault Refusal :=
  .next (s.reachStages accession.toNat).proceed

end Sys2Proof.Machine
end

