-- ==== Sys2Proof/Machine/NoticeCommands.lean ====
section
/-! DEFINITION. The notice commands: ARM NOTICES, TAKE NOTICES, ENABLE NOTICES (chapter 10). -/

namespace Sys2Proof.Machine

/-! ### ARM NOTICES -/

/-- ARM NOTICES (R198). -/
def State.armNotices (s : State) : State × Response :=
  let t := (s.withNotices { s.notices with armed := true }).testLatch
  (t, ⟨.ok, [yesNo t.notices.armed, yesNo t.notices.latched]⟩)

def execArmNotices (form : Byte) (s : State) : Host.Outcome State Fault Refusal :=
  .next (hostCommand (.armNotices form) State.armNotices s)

/-! ### TAKE NOTICES -/

/-- The last-commit record as the notice report shows it (R214). -/
def lastCommitBytes : Option LastCommit → List Byte
  | none => [0, 0, 0, 0, 0, 0, 0, 0]
  | some l => [1] ++ bytesOf 3 l.accession ++ [l.kind.byte, l.outcome.byte] ++ bytesOf 2 l.revision.toNat

/-- The 42 bytes of the notice report (R199, R214). -/
def State.noticeReport (s : State) : List Byte :=
  bytesOf 2 s.notices.kinds.toNat ++ bytesOf 2 s.settings.noticeEnables.toNat
    ++ bytesOf 2 s.notices.cursorStalled.toNat ++ bytesOf 2 s.notices.cursorDetached.toNat
    ++ bytesOf 2 s.notices.cursorFaulted.toNat ++ bytesOf 8 s.notices.volumeFailed.toNat
    ++ bytesOf 8 s.notices.volumeProbeRequest.toNat ++ bytesOf 8 s.notices.volumeReturned.toNat
    ++ lastCommitBytes s.engine.lastCommit

/-- TAKE NOTICES: the report, and in the same step the pending set, the masks and the last-commit record
cleared and the latch LOW; ARMED stays (R199). -/
def State.takeNotices (s : State) : State × Response :=
  ((s.withNotices { Notices.afterReset with armed := s.notices.armed }).withEngine
      { s.engine with lastCommit := none },
    ⟨.ok, s.noticeReport⟩)

def execTakeNotices (form : Byte) (s : State) : Host.Outcome State Fault Refusal :=
  .next (hostCommand (.takeNotices form) State.takeNotices s)

/-! ### ENABLE NOTICES -/

/-- The enables after the set mask's kinds have joined and then the clear mask's have left; bits beyond
the ten kinds are ignored (R196). -/
def enablesAfter (enables : BitVec 10) (setMask clearMask : BitVec 16) : BitVec 10 :=
  (enables ||| setMask.setWidth 10) &&& ~~~(clearMask.setWidth 10)

/-- ENABLE NOTICES (R196). -/
def State.enableNotices (s : State) (setMask clearMask : BitVec 16) : State × Response :=
  let enables := enablesAfter s.settings.noticeEnables setMask clearMask
  ((s.withSettings { s.settings with noticeEnables := enables }).testLatch,
    ⟨.ok, bytesOf 2 enables.toNat⟩)

def execEnableNotices (form : Byte) (setMask clearMask : BitVec 16) (s : State) :
    Host.Outcome State Fault Refusal :=
  .next (hostCommand (.enableNotices form setMask clearMask)
    (fun s => s.enableNotices setMask clearMask) s)

end Sys2Proof.Machine
end

