-- ==== Sys2Proof/Machine/SettingsCommands.lean ====
section
/-! DEFINITION. The settings by number, and SET SETTING and READ SETTING (chapter 10.5, R214). -/

namespace Sys2Proof.Machine

/-- The settings that have a number (R214). -/
inductive SettingName where
  | linkLanes | defaultChunk | protectionLow | protectionHigh | protectionInvert
  | protectionEnabled | tHold1 | act1 | tHold2 | act2 | tHold3 | act3 | faultThreshold | tFwin
  | tPwait | tPto | tStable | registered | autoProbe | autoReturn | noticeEnables
  deriving DecidableEq, Repr

/-- The setting a number names (R214). -/
def SettingName.ofNumber (number : Byte) : Option SettingName :=
  match number.toNat with
  | 0x01 => some .linkLanes
  | 0x02 => some .defaultChunk
  | 0x03 => some .protectionLow
  | 0x04 => some .protectionHigh
  | 0x05 => some .protectionInvert
  | 0x06 => some .protectionEnabled
  | 0x08 => some .tHold1
  | 0x09 => some .act1
  | 0x0A => some .tHold2
  | 0x0B => some .act2
  | 0x0C => some .tHold3
  | 0x0D => some .act3
  | 0x10 => some .faultThreshold
  | 0x11 => some .tFwin
  | 0x12 => some .tPwait
  | 0x13 => some .tPto
  | 0x14 => some .tStable
  | 0x18 => some .registered
  | 0x19 => some .autoProbe
  | 0x1A => some .autoReturn
  | 0x20 => some .noticeEnables
  | _ => none

/-- The three settings that are held for each volume (R204). -/
def SettingName.perVolume : SettingName → Bool
  | .registered | .autoProbe | .autoReturn => true
  | _ => false

/-- The escalation intervals, whose change is compared with the ages at once (R205). -/
def SettingName.isHold : SettingName → Bool
  | .tHold1 | .tHold2 | .tHold3 => true
  | _ => false

def yesNoValue (b : Bool) : Nat := if b then 1 else 0

/-- A setting's value as an unsigned number (R214); `v` is read for a per-volume setting alone. -/
def Settings.value (st : Settings) (v : Fin 64) : SettingName → Nat
  | .linkLanes => st.linkLanes
  | .defaultChunk => st.defaultChunk
  | .protectionLow => st.protectionLow
  | .protectionHigh => st.protectionHigh
  | .protectionInvert => yesNoValue st.protectionInvert
  | .protectionEnabled => yesNoValue st.protectionEnabled
  | .tHold1 => st.tHold1
  | .act1 => st.act1.byte.toNat
  | .tHold2 => st.tHold2
  | .act2 => st.act2.byte.toNat
  | .tHold3 => st.tHold3
  | .act3 => st.act3.byte.toNat
  | .faultThreshold => st.faultThreshold
  | .tFwin => st.tFwin
  | .tPwait => st.tPwait
  | .tPto => st.tPto
  | .tStable => st.tStable
  | .registered => yesNoValue (st.policies.get v).registered
  | .autoProbe => yesNoValue (st.policies.get v).autoProbe
  | .autoReturn => yesNoValue (st.policies.get v).autoReturn
  | .noticeEnables => st.noticeEnables.toNat

/-- Whether a value lies in a setting's range (R204). -/
def SettingName.admits (name : SettingName) (x : Nat) : Bool :=
  match name with
  | .linkLanes => decide (x = 1 ∨ x = 2 ∨ x = 4)
  | .defaultChunk => decide (Config.minSpan ≤ x ∧ x ≤ Config.maxChunk)
  | .protectionLow | .protectionHigh => decide (x ≤ 16777215)
  | .protectionInvert | .protectionEnabled => decide (x ≤ 1)
  | .tHold1 | .tHold2 | .tHold3 => decide (x ≤ 3600000)
  | .act1 | .act2 | .act3 => decide (x ≤ 3)
  | .faultThreshold => decide (1 ≤ x ∧ x ≤ 15)
  | .tFwin => decide (100 ≤ x ∧ x ≤ 60000)
  | .tPwait => decide (1000 ≤ x ∧ x ≤ 600000)
  | .tPto => decide (1000 ≤ x ∧ x ≤ 120000)
  | .tStable => decide (1000 ≤ x ∧ x ≤ 3600000)
  | .registered | .autoProbe | .autoReturn => decide (x ≤ 1)
  | .noticeEnables => true

/-- One volume's policies rewritten. -/
def Settings.setPolicy (st : Settings) (v : Fin 64) (p : VolumePolicy) : Settings :=
  { st with policies := st.policies.set v p }

/-- A setting's live value written, from an admitted number (R205, R214). -/
def Settings.write (st : Settings) (v : Fin 64) (x : Nat) : SettingName → Settings
  | .linkLanes => { st with linkLanes := x }
  | .defaultChunk => { st with defaultChunk := x }
  | .protectionLow => { st with protectionLow := x }
  | .protectionHigh => { st with protectionHigh := x }
  | .protectionInvert => { st with protectionInvert := x == 1 }
  | .protectionEnabled => { st with protectionEnabled := x == 1 }
  | .tHold1 => { st with tHold1 := x }
  | .act1 => { st with act1 := (Action.ofCode x).getD .none }
  | .tHold2 => { st with tHold2 := x }
  | .act2 => { st with act2 := (Action.ofCode x).getD .none }
  | .tHold3 => { st with tHold3 := x }
  | .act3 => { st with act3 := (Action.ofCode x).getD .none }
  | .faultThreshold => { st with faultThreshold := x }
  | .tFwin => { st with tFwin := x }
  | .tPwait => { st with tPwait := x }
  | .tPto => { st with tPto := x }
  | .tStable => { st with tStable := x }
  | .registered => st.setPolicy v { st.policies.get v with registered := x == 1 }
  | .autoProbe => st.setPolicy v { st.policies.get v with autoProbe := x == 1 }
  | .autoReturn => st.setPolicy v { st.policies.get v with autoReturn := x == 1 }
  | .noticeEnables => { st with noticeEnables := BitVec.ofNat 10 x }

/-- The setting and volume that a SET SETTING or READ SETTING names; `none` is MALFORMED. The volume of a
setting that is not per volume is ignored and reads 0 (R205, R206, R209; log entry 11). -/
def settingNamed (number volume : Byte) : Option (SettingName × Fin 64) :=
  match SettingName.ofNumber number with
  | none => none
  | some name =>
    if name.perVolume then (volumeOf volume).map fun v => (name, v) else some (name, 0)

/-! ### SET SETTING -/

/-- A volume's entry after its live registered setting changes (R112). -/
def Volume.registeredAs (yes : Bool) : Volume :=
  if yes then Volume.clean else ⟨.unregistered, 0, .idle⟩

/-- A changed live value acting by its block's own rule (R205). Lanes act when the frame ends (R187);
the other settings act when next read. DESIGN CHOICE, log entry 13: after a tHOLD change the engine takes
once, after the last comparison (R162, R167). -/
def State.settingActs (s : State) (name : SettingName) (v : Fin 64) : State :=
  match name with
  | .registered => s.setVolume v (Volume.registeredAs (s.policyOf v).registered)
  | .tHold1 => s.reachAllStages.proceed
  | .tHold2 => s.reachAllStages.proceed
  | .tHold3 => s.reachAllStages.proceed
  | .noticeEnables => s.testLatch
  | _ => s

/-- A live value written and acting; a write of the value already held changes nothing (R205). -/
def State.writeSetting (s : State) (name : SettingName) (v : Fin 64) (x : Nat) : State :=
  let written := s.settings.write v x name
  if written.value v name = s.settings.value v name then s
  else (s.withSettings written).settingActs name v

/-- SET SETTING (R205). -/
def State.setSetting (s : State) (number volume : Byte) (value : BitVec 32) : State × Response :=
  match settingNamed number volume with
  | none => (s, .malformedArguments)
  | some (name, v) =>
    if name.admits value.toNat then
      (s.writeSetting name v value.toNat,
        ⟨.ok, [number] ++ bytesOf 1 v.val ++ bytesOf 4 ((s.settings.write v value.toNat name).value v name)⟩)
    else (s, .malformedArguments)

def execSetSetting (form number volume : Byte) (value : BitVec 32) (s : State) :
    Host.Outcome State Fault Refusal :=
  .next (hostCommand (.setSetting form number volume value)
    (fun s => s.setSetting number volume value) s)

/-! ### READ SETTING -/

/-- What READ SETTING answers (R206, R208). -/
def State.readSetting (s : State) (number volume : Byte) : Response :=
  match settingNamed number volume with
  | none => .malformedArguments
  | some (name, v) =>
    ⟨.ok, [number] ++ bytesOf 1 v.val ++ bytesOf 4 (s.settings.value v name)
      ++ bytesOf 4 ((s.store.settings.getD Settings.factory).value v name)
      ++ [yesNo s.store.settings.isSome]⟩

def execReadSetting (form number volume : Byte) (s : State) : Host.Outcome State Fault Refusal :=
  .next (hostQuery (.readSetting form number volume) (fun s => s.readSetting number volume) s)

end Sys2Proof.Machine
end

