-- ==== Sys2Proof/Machine/StatusCommands.lean ====
section
/-! DEFINITION. READ STATUS, what the part drives onto the lanes, READ IDENTITY, CLEAR CONDITION, RESET, and
the answer to an unknown code (chapters 3, 7 and 9). -/

namespace Sys2Proof.Machine

/-! ### READ STATUS -/

/-- Whether the frame in progress is a READ STATUS frame that has been answered, which repeats its status
word while select stays low (R189). -/
def State.repeatsStatus (s : State) : Bool :=
  !s.pins.held &&
    match s.link.frame with
    | some f => f.code == some 0x70#8 && (f.phase == .turnaround || f.phase == .response)
    | none => false

/-- One more copy of the status word, built from the state as it stands (R189, R203). -/
def State.repeatStatus (s : State) : State :=
  match s.link.frame with
  | none => s
  | some f =>
    s.withLink { s.link with
      frame := some { f with phase := .response, response := f.response ++ s.statusWord } }

/-- READ STATUS: the status word in every state of the part, and in its own frame another copy each time
the row comes again (R189). DESIGN CHOICE, log entry 16: the first copy is the state at the moment of
effect, as R181 fixes a response, and not at the first byte's clock after the turnaround. -/
def execReadStatus (form : Byte) (s : State) : Host.Outcome State Fault Refusal :=
  .next (if s.repeatsStatus then s.repeatStatus
    else linkCommand (.readStatus form) (fun _ => none) (fun s => (s, ⟨.ok, s.statusWord⟩)) s)

/-! ### What the part drives -/

/-- The byte driven in byte time `j` of RESPONSE: the response's own, and past its last byte 00h, or in a
READ STATUS frame the status word again, from the state as it stands (R182, R184, R189, R209). -/
def State.responseByte (s : State) (f : Frame) (j : Nat) : Byte :=
  match f.response[j]? with
  | some b => b
  | none =>
    if f.code = some 0x70#8 then s.statusWord.getD ((j - f.response.length) % 8) 0 else 0

/-- What the part drives at clock `k` after the moment of effect, for as long as select stays low: nothing
through the turnaround, and then one byte per byte time on the lanes in use (R182). In every other phase,
and with no frame, it drives nothing (R179, R180, R191). -/
def State.drivenAt (s : State) (k : Nat) : DrivenLanes :=
  let n := clocksPerByte s.link.lanes
  match s.link.frame with
  | none => DrivenLanes.released
  | some f =>
    if (f.clocked s.link.lanes k).phase = .response ∧ n ≤ k then
      ⟨lanesUsed s.link.lanes,
        (clocksOfByte s.link.lanes (s.responseByte f (k / n - 1))).getD (k % n) 0#4⟩
    else DrivenLanes.released

/-- The first `count` clocks after the moment of effect as the part drives them (R182). -/
def State.drivenClocks (s : State) (count : Nat) : List DrivenLanes :=
  (List.range count).map s.drivenAt

/-! ### READ IDENTITY -/

/-- READ IDENTITY is answered during start-up, and NOT_READY while a soft reset is pending (R188). -/
def identityReadiness (s : State) : Option Response :=
  if s.resetPending then some (.bare .notReady) else none

/-- The identity fields (R190, R211). -/
def State.identity (s : State) : List Byte :=
  [0x57] ++ bytesOf 2 0x0640 ++ [1] ++ bytesOf 2 Config.slotCount ++ bytesOf 3 Config.poolSize
    ++ bytesOf 1 Config.cursorCount ++ bytesOf 1 Config.pathDepth ++ bytesOf 1 Config.volumeCount
    ++ bytesOf 1 Config.queueSize ++ bytesOf 1 s.link.lanes ++ [yesNo s.starting]

def execReadIdentity (form : Byte) (s : State) : Host.Outcome State Fault Refusal :=
  .next (linkCommand (.readIdentity form) identityReadiness (fun s => (s, ⟨.ok, s.identity⟩)) s)

/-! ### CLEAR CONDITION -/

/-- CLEAR CONDITION (R56). -/
def execClearCondition (form : Byte) (s : State) : Host.Outcome State Fault Refusal :=
  .next (hostCommand (.clearCondition form)
    (fun s => (s.withResolution Resolution.clear, .bare .ok)) s)

/-! ### RESET -/

/-- RESET: with the engine COMMITTING the reset is pending at once, and otherwise it is ordered for the
end of the frame (R192). -/
def State.orderReset (s : State) : State :=
  if s.committing then s.withResetPending true
  else s.withLink { s.link with resetOrdered := true }

def execReset (form : Byte) (s : State) : Host.Outcome State Fault Refusal :=
  .next (hostCommand (.reset form) (fun s => (s.orderReset, .bare .ok)) s)

/-! ### An unknown code -/

/-- A code byte that names no command, answered in every state of the part (R184). A code that names a
command is no unknown code, and its row changes nothing: log entry 4. -/
def execUnknownCommand (code : Byte) (s : State) : Host.Outcome State Fault Refusal :=
  .next (if knownCode code then s
    else linkCommand (.unknownCommand code) (fun _ => none) (fun s => (s, .bare .unknownCommand)) s)

end Sys2Proof.Machine
end

