-- ==== Sys2Proof/Machine/Dispatch.lean ====
section
/-! DEFINITION. The meaning of each command: one arm a constructor. -/

namespace Sys2Proof.Machine

def exec (i : Instr) (s : State) : Host.Outcome State Fault Refusal :=
  match i with
  | .readItem form accession => Sys2Proof.Machine.execReadItem form accession s
  | .readSegments form accession first maximum => Sys2Proof.Machine.execReadSegments form accession first maximum s
  | .enumerate form start mask maximum => Sys2Proof.Machine.execEnumerate form start mask maximum s
  | .findCarrier form carrierId kindFilter startSide startTrack startAccession maximum => Sys2Proof.Machine.execFindCarrier form carrierId kindFilter startSide startTrack startAccession maximum s
  | .locate form accession position clearance => Sys2Proof.Machine.execLocate form accession position clearance s
  | .writeItem form header segments => Sys2Proof.Machine.execWriteItem form header segments s
  | .amendSegments form accession first oldCount newCount run => Sys2Proof.Machine.execAmendSegments form accession first oldCount newCount run s
  | .setItemFields form accession fields => Sys2Proof.Machine.execSetItemFields form accession fields s
  | .certifyItem form accession => Sys2Proof.Machine.execCertifyItem form accession s
  | .retireItem form accession successor => Sys2Proof.Machine.execRetireItem form accession successor s
  | .purgeItem form accession => Sys2Proof.Machine.execPurgeItem form accession s
  | .clearHoldings form => Sys2Proof.Machine.execClearHoldings form s
  | .storeSettings form => Sys2Proof.Machine.execStoreSettings form s
  | .cancelPending form accession => Sys2Proof.Machine.execCancelPending form accession s
  | .readPending form => Sys2Proof.Machine.execReadPending form s
  | .freeze form => Sys2Proof.Machine.execFreeze form s
  | .thaw form => Sys2Proof.Machine.execThaw form s
  | .openCursor form cursor accession position chunk clearance preference trim => Sys2Proof.Machine.execOpenCursor form cursor accession position chunk clearance preference trim s
  | .seek form cursor kind value => Sys2Proof.Machine.execSeek form cursor kind value s
  | .setLoop form cursor start length => Sys2Proof.Machine.execSetLoop form cursor start length s
  | .clearLoop form cursor => Sys2Proof.Machine.execClearLoop form cursor s
  | .fetch form cursor => Sys2Proof.Machine.execFetch form cursor s
  | .closeCursor form cursor => Sys2Proof.Machine.execCloseCursor form cursor s
  | .readCursor form cursor => Sys2Proof.Machine.execReadCursor form cursor s
  | .reportFault form volume => Sys2Proof.Machine.execReportFault form volume s
  | .probeResult form volume result => Sys2Proof.Machine.execProbeResult form volume result s
  | .probeVolume form volume => Sys2Proof.Machine.execProbeVolume form volume s
  | .failVolume form volume => Sys2Proof.Machine.execFailVolume form volume s
  | .restoreVolume form volume => Sys2Proof.Machine.execRestoreVolume form volume s
  | .readVolumes form first maximum => Sys2Proof.Machine.execReadVolumes form first maximum s
  | .armNotices form => Sys2Proof.Machine.execArmNotices form s
  | .takeNotices form => Sys2Proof.Machine.execTakeNotices form s
  | .enableNotices form setMask clearMask => Sys2Proof.Machine.execEnableNotices form setMask clearMask s
  | .setSetting form number volume value => Sys2Proof.Machine.execSetSetting form number volume value s
  | .readSetting form number volume => Sys2Proof.Machine.execReadSetting form number volume s
  | .readStatus form => Sys2Proof.Machine.execReadStatus form s
  | .readIdentity form => Sys2Proof.Machine.execReadIdentity form s
  | .clearCondition form => Sys2Proof.Machine.execClearCondition form s
  | .reset form => Sys2Proof.Machine.execReset form s
  | .unknownCommand code => Sys2Proof.Machine.execUnknownCommand code s
  | .frameOpen => Sys2Proof.Machine.execFrameOpen s
  | .frameEnd sampled => Sys2Proof.Machine.execFrameEnd sampled s
  | .hardReset markWritten => Sys2Proof.Machine.execHardReset markWritten s
  | .resetNRelease => Sys2Proof.Machine.execResetNRelease s
  | .scanComplete => Sys2Proof.Machine.execScanComplete s
  | .commitComplete => Sys2Proof.Machine.execCommitComplete s
  | .commitStoreFault => Sys2Proof.Machine.execCommitStoreFault s
  | .takeReadyEntry => Sys2Proof.Machine.execTakeReadyEntry s
  | .timeBaseTick => Sys2Proof.Machine.execTimeBaseTick s
  | .tfwinExpiry volume => Sys2Proof.Machine.execTfwinExpiry volume s
  | .tpwaitExpiry volume => Sys2Proof.Machine.execTpwaitExpiry volume s
  | .tptoExpiry volume => Sys2Proof.Machine.execTptoExpiry volume s
  | .tstableExpiry volume => Sys2Proof.Machine.execTstableExpiry volume s
  | .stageReached accession => Sys2Proof.Machine.execStageReached accession s

end Sys2Proof.Machine
end

