-- ==== Sys2Proof/WellFormed.lean ====
section
/-! DEFINITION. Which commands are well formed. A field of any value is well formed as it stands, since
the part answers each value by its rules; what is checked is that a row is the event it says it is: a
WRITE ITEM or AMEND SEGMENTS has brought exactly the segments its count announces (R31, R32), and an
unknown command's code names no command (R184). -/

namespace Sys2Proof

/-- A command that the link can bring to its moment of effect with nothing left over. -/
def Instr.wellFormed : Instr → Bool
  | .writeItem _ header segments => segments.length == expectedSegments header.segmentCount
  | .amendSegments _ _ _ _ newCount run => run.length == expectedSegments newCount
  | .unknownCommand code => !knownCode code
  | _ => true

end Sys2Proof
end

