-- ==== Sys2Proof/Safety.lean ====
section
/-! DEFINITION. What the claims about the part are stated in: when a command is taken, and the invariants
that every step keeps. -/

namespace Sys2Proof.Machine

/-! ### When a command is taken -/

/-- A command that arrives now is handed to its block: a frame stands in phase CODE, and the readiness
check of R188 passes. -/
def State.ready (s : State) : Prop :=
  s.takesCommand = true ∧ s.starting = false ∧ s.resetPending = false

/-- The part has taken `i` and fixed the answer `r` (R181, R182). -/
def State.hasAnswered (s : State) (i : Instr) (r : Response) : Prop :=
  s.link.frame = some ⟨.turnaround, i.code, i.frameBytes, r.bytes⟩

/-- The change that a change command asks for, and whether it asks in the strict form, which WRITE ITEM
alone heeds (R54, R133). -/
def State.changeOf (s : State) : Instr → Option (Change × Bool)
  | .writeItem form header segments => some (.writeItem header segments, strictForm form)
  | .amendSegments _ accession first oldCount newCount run =>
    some (.amendSegments accession.toNat first.toNat oldCount.toNat newCount.toNat run, false)
  | .setItemFields _ accession fields => some (.setItemFields accession.toNat fields, false)
  | .certifyItem _ accession => some (.certifyItem accession.toNat, false)
  | .retireItem _ accession successor =>
    some (.retireItem accession.toNat successor.toNat, false)
  | .purgeItem _ accession => some (.purgeItem accession.toNat, false)
  | .clearHoldings _ => some (.clearHoldings, false)
  | .storeSettings _ => some (.storeSettings s.settings, false)
  | _ => none

/-- A change that has passed steps 2 to 6 of the acceptance checks (R134). -/
def State.passesChecks (s : State) (c : Change) (strict : Bool) : Prop :=
  s.engine.frozen = false ∧ s.protectsChange c = false ∧ s.recordRefusal c strict = none ∧
    s.contentRefusal c = none ∧ s.entryRefusal c = false

/-- A segment list tiles `[start, stop)`: each segment begins where the one before it ends, and none is
empty (R28). -/
def tilesFrom : Nat → List Segment → Nat → Prop
  | start, [], stop => start = stop
  | start, g :: rest, stop => g.start = start ∧ 1 ≤ g.length ∧ tilesFrom (start + g.length) rest stop

/-- A record's segment list as R28 has it: 1 to 64 segments that tile the item from 0 to its duration. -/
def ItemRecord.tiled (r : ItemRecord) : Prop :=
  1 ≤ r.segments.length ∧ r.segments.length ≤ Config.segmentLimit ∧
    tilesFrom 0 r.segments r.duration

/-- A target brought within an item (R58). -/
def clampTo (target : Int) (duration : Nat) : Nat :=
  if target < 0 then 0 else if (duration : Int) < target then duration else target.toNat

/-- The condition of a target that was accepted (R55). -/
def conditionOf (target : Int) (duration : Nat) : Condition :=
  if target < 0 then .below else if (duration : Int) ≤ target then .above else .within

/-- The kind of a raise (R194). -/
def Notice.kind : Notice → NoticeKind
  | .commitDone => .commitDone
  | .commitFailed => .commitFailed
  | .changeStage => .changeStage
  | .started => .started
  | .cursorStalled _ => .cursorStalled
  | .cursorDetached _ => .cursorDetached
  | .cursorFaulted _ => .cursorFaulted
  | .volumeFailed _ => .volumeFailed
  | .volumeProbeRequest _ => .volumeProbeRequest
  | .volumeReturned _ => .volumeReturned

/-! ### Invariants -/

/-- The line is never left low with ARMED set and an enabled kind pending (R197). -/
def State.latchSettled (s : State) : Prop :=
  ¬(s.notices.latched = false ∧ s.notices.armed = true ∧
    s.notices.enabledPending s.settings.noticeEnables = true)

/-- One version of every record in ascending accession, and once the part has started, one index entry a
record and the carrier index of exactly the records that are not WITHDRAWN (R12, R13, R14). -/
def State.catalogueKept (s : State) : Prop :=
  s.store.records.Pairwise (fun a b => a.accession < b.accession) ∧
    (s.starting = false →
      s.index.entries.map (·.accession) = s.store.records.map (·.accession) ∧
      s.index.carriers = carriersOf s.store.records)

/-- A cursor's state, path, yield flag and fault code agree (R80, R81), and its path has at most four
frames (R62). -/
def Cursor.coherent (c : Cursor) : Prop :=
  (c.state = .closed → c = Cursor.closed) ∧
    (c.path = [] ↔ c.state = .closed ∨ c.state = .detached ∨ c.state = .faulted) ∧
    (c.fault.isSome = true ↔ c.state = .faulted) ∧
    (c.state = .open → c.yieldFlag = false) ∧
    (c.state = .yielding → c.yieldFlag = true) ∧
    c.path.length ≤ Config.pathDepth

def State.cursorsCoherent (s : State) : Prop := ∀ c ∈ s.cursors.list, c.coherent

/-- The deferral queue holds at most eight entries, one for an accession, each of stage 0 to 3 and of an
age that fits its field (R158, R159, R165). -/
def State.queueBounded (s : State) : Prop :=
  s.queue.length ≤ Config.queueSize ∧ (s.queue.map (·.accession)).Nodup ∧
    ∀ e ∈ s.queue, e.stage ≤ 3 ∧ e.age ≤ Config.maxAge

/-- No READY entry waits while the engine may take one (R203). -/
def State.readyTaken (s : State) : Prop := s.mayTake = true → s.readyCount = 0

/-- The change in flight and the deferred changes are what their acceptance left them: there is none while
the part is STARTING, the provisional slot and segments are what the change needs, an amendment's record
stands, and nothing waits behind a CLEAR HOLDINGS or behind a purge of its own item (R36, R139, R140, R142,
R157, R160, R188). -/
def State.changesSound (s : State) : Prop :=
  (s.starting = true → s.engine.inFlight = none ∧ s.queue = []) ∧
  (∀ f, s.engine.inFlight = some f →
    f.provisionalSlots = f.change.slotsNeeded s.store.records ∧
    f.provisionalSegments = f.change.segmentsNeeded ∧
    (f.change.kind = .amendSegments → (s.record? f.change.accession).isSome = true) ∧
    (f.change.kind = .clearHoldings → s.queue = []) ∧
    (f.change.kind = .purgeItem → ∀ e ∈ s.queue, e.accession ≠ f.change.accession)) ∧
  ∀ e ∈ s.queue, e.accession = e.payload.accession ∧ e.payload.deferrable s.store.records = true ∧
    (s.record? e.accession).isSome = true

/-- Every slot is held by a record, vacant, or provisional, and every pool place is owned, free, or
provisional (R10, R34, R36). -/
def State.storeConserved (s : State) : Prop :=
  s.index.vacantSlots + s.store.records.length
      + (s.engine.inFlight.map (·.provisionalSlots)).getD 0 = Config.slotCount ∧
    s.index.freeSegments + segmentsOwned s.store.records
      + (s.engine.inFlight.map (·.provisionalSegments)).getD 0 = Config.poolSize

/-- The three together, as one step keeps them. -/
def State.storeSound (s : State) : Prop := s.catalogueKept ∧ s.changesSound ∧ s.storeConserved

/-- Once the part has started, every use count is the number of path frames that name its record (R4). -/
def State.usesExact (s : State) : Prop :=
  s.starting = false → ∀ e ∈ s.index.entries, e.useCount = framesNaming s.cursors e.accession

/-- What R4 and R8 rest on: no path names a record that does not stand, no path stands before the part has
started, and no path names a record whose purge is in flight, which is WITHDRAWN. -/
def State.pathsSound (s : State) : Prop :=
  (∀ c ∈ s.cursors.list, ∀ f ∈ c.path, (s.record? f.accession).isSome = true) ∧
    (s.starting = true → ∀ c ∈ s.cursors.list, c.path = []) ∧
    ∀ f, s.engine.inFlight = some f → f.change.kind = .purgeItem →
      framesNaming s.cursors f.change.accession = 0 ∧
      ∀ r, s.record? f.change.accession = some r → r.state = .withdrawn

/-- The invariants that hold together over the catalogue, the changes and the paths. -/
def State.usesSound (s : State) : Prop := s.storeSound ∧ s.usesExact ∧ s.pathsSound

/-- The use counts and deferral entries stand as settling leaves them, and no READY entry waits for an
engine that may take it (R72, R161, R203). -/
def State.settled (s : State) : Prop := s.settleCounts = s ∧ s.readyTaken

/-! ### Segment lists -/

/-- A record's segment list by its state: tiled in ACTIVE and CERTIFIED, and absent in WITHDRAWN (R1, R28). -/
def ItemRecord.listed (r : ItemRecord) : Prop :=
  (r.state ≠ .withdrawn → r.tiled) ∧ (r.state = .withdrawn → r.segments = [])

/-- A change in hand still stands as its record state and content checks left it (R7, R137, R139). -/
def Change.fits (c : Change) (records : List ItemRecord) : Prop :=
  match c with
  | .writeItem h segments =>
    segments.length = expectedSegments h.segmentCount ∧ writeReport h segments = none
  | .amendSegments a first k m run =>
    run.length = m ∧ ∀ r, findRecord records a = some r → amendReport r first k m run = none
  | .certifyItem a => ∀ r, findRecord records a = some r → r.state = .active
  | .setItemFields .. | .retireItem .. | .purgeItem _ | .clearHoldings | .storeSettings _ => True

/-- No two changes in hand name one item: one entry an accession, the COMMITTING entry is the change in
flight from the queue, and a change in flight from a command has no entry beside it (R139, R140, R161). -/
def State.changesApart (s : State) : Prop :=
  (s.queue.map (·.accession)).Nodup ∧
  (∀ e ∈ s.queue, e.state = .committing →
    ∃ f, s.engine.inFlight = some f ∧ f.source = .queue ∧ f.change = e.payload) ∧
  ∀ f, s.engine.inFlight = some f →
    (f.source = .direct → f.change.namesItem = true → ∀ e ∈ s.queue, e.accession ≠ f.change.accession) ∧
    (f.source = .queue → ∃ e ∈ s.queue, e.state = .committing ∧ e.payload = f.change)

/-- Every standing record has its list, and every change in hand will leave one. -/
def State.listsSound (s : State) : Prop :=
  s.storeSound ∧ s.changesApart ∧ (∀ r ∈ s.store.records, r.listed) ∧
    (∀ f, s.engine.inFlight = some f → f.change.fits s.store.records) ∧
    ∀ e ∈ s.queue, e.payload.fits s.store.records

/-! ### The deferral queue -/

/-- Once the part has started, the pending field is yes exactly while an entry for the accession is in the
queue (R4, R159). -/
def State.pendingExact (s : State) : Prop :=
  s.starting = false →
    ∀ x ∈ s.index.entries, x.pending = s.queue.any fun e => e.accession == x.accession

/-- A WAITING entry's item is in use, a READY entry's is not, and no stage of a WAITING entry stands due
while the engine is THAWED (R161, R167). -/
def State.entriesFollow (s : State) : Prop :=
  ∀ e ∈ s.queue,
    (e.state = .waiting → 0 < framesNaming s.cursors e.accession) ∧
    (e.state = .ready → framesNaming s.cursors e.accession = 0) ∧
    (e.state = .waiting → s.engine.frozen = false →
      ∀ k, e.stage < k → k ≤ 3 → e.age < s.settings.threshold k)

/-- The deferral queue against the index, the cursors and the engine. -/
def State.queueSound (s : State) : Prop :=
  s.usesSound ∧ s.changesApart ∧ s.pendingExact ∧ s.entriesFollow

/-! ### Settings and volumes -/

/-- Every setting lies in its range (R204). -/
def Settings.inRange (st : Settings) : Prop := ∀ (name : SettingName) (v : Fin 64), name.admits (st.value v name) = true

/-- The live settings, the stored ones, and the snapshot of a STORE SETTINGS in hand lie in their ranges
(R142, R204, R205). -/
def State.settingsSound (s : State) : Prop :=
  s.settings.inRange ∧ (∀ st, s.store.settings = some st → st.inRange) ∧
    (∀ f st, s.engine.inFlight = some f → f.change = .storeSettings st → st.inRange) ∧
    ∀ e ∈ s.queue, ∀ st, e.payload = .storeSettings st → st.inRange

/-- A volume's health, fault count and timer agree with its registered setting and each other (R108, R115). -/
def Volume.agrees (e : Volume) (registered : Bool) : Prop :=
  match e.health with
  | .unregistered => registered = false ∧ e.faultCount = 0 ∧ e.timer = .idle
  | .online => registered = true ∧
      (e.faultCount = 0 ∧ e.timer = .idle ∨
        1 ≤ e.faultCount ∧ e.faultCount ≤ 14 ∧ ∃ ms, e.timer = .running .tFwin ms)
  | .failed => registered = true ∧ e.faultCount ≤ 15 ∧
      (e.timer = .idle ∨ ∃ ms, e.timer = .running .tPwait ms)
  | .probing => registered = true ∧ e.faultCount ≤ 15 ∧ ∃ ms, e.timer = .running .tPto ms
  | .settling => registered = true ∧ e.faultCount ≤ 15 ∧
      (e.timer = .idle ∨ ∃ ms, e.timer = .running .tStable ms)

/-- Every volume entry by the table of R108, over settings in their ranges. -/
def State.volumesSound (s : State) : Prop :=
  s.settingsSound ∧ ∀ v, (s.volumes.get v).agrees (s.settings.policies.get v).registered

/-! ### Where cursors stand -/

/-- A cursor stands within its top item: the position at most the duration, a loop of at least 10,000
microseconds, the path from the top accession, and in ENDED one frame. On a path that the revision check
lets stand, the top frame is the one in use at the position, and the cursor is ENDED exactly at the item's
end, where that frame is at end (R59, R61, R81, R102). -/
def Cursor.standsIn (c : Cursor) (records : List ItemRecord) : Prop :=
  (∀ l, c.loop = some l → l.start + Config.minSpan ≤ l.stop) ∧
  (∀ f, c.path.head? = some f → f.accession = c.top) ∧
  (c.state = .ended → c.path.length = 1) ∧
  ∀ r, findRecord records c.top = some r → c.position ≤ r.duration ∧
    (c.path ≠ [] → pathCurrent records c.path = true →
      c.path.head? = some ⟨c.top, r.revision, segmentAt r.segments c.position, 0, false⟩ ∧
      (c.state = .ended ↔ c.position = r.duration) ∧
      (c.state = .ended → segmentAt r.segments c.position = r.segments.length))

/-- Every open cursor stands within its top item, over sound segment lists. -/
def State.cursorsStand (s : State) : Prop :=
  s.listsSound ∧ s.cursorsCoherent ∧
    ∀ c ∈ s.cursors.list, c.state ≠ .closed → c.standsIn s.store.records

/-- The change in flight brings its item to no revision that a standing frame saw of an older version:
fewer than 65,536 changes have completed under any one frame (R3, R75). -/
def State.revisionsFresh (s : State) : Prop :=
  ∀ f, s.engine.inFlight = some f → f.change.namesItem = true →
    ∀ r, findRecord (f.change.applyRecords s.store.records) f.change.accession = some r →
      ∀ c ∈ s.cursors.list, ∀ x ∈ c.path, x.accession = f.change.accession →
        x.revisionSeen ≠ r.revision

end Sys2Proof.Machine
end

