-- ==== Sys2Proof/Certificates/Slice0/Obligations.lean ====
section
/-! DEFINITION. The statements for the provers. Each docstring names the chapter and rule of spec/ that it
comes from. -/

open Sys2Proof Sys2Proof.Machine

/-! ### The step and the queue -/

/-- A step takes the command at the front of the queue and runs it on the rest of the state. -/
def Obligations.StepRunsFrontCommand : Prop :=
  ∀ (c : Instr) (rest : List Instr) (s : State), s.pending = c :: rest →
    step s = exec c (s.withPending rest)

/-- Every command answers a next state, in every state, and none touches the queue of commands: this is the
model's reading (log entries 4, 23 and 25), since the manual names no event that stops the part and says of
host commands alone that each is answered. Every host command that takes effect fixes one response, whose
first byte is a result code, and its frame enters TURNAROUND with the bytes received (R181, R182). -/
def Obligations.EveryCommandIsAnswered : Prop :=
  (∀ (i : Instr) (s : State), ∃ t, exec i s = .next t ∧ t.pending = s.pending) ∧
  ∀ (i : Instr) (s : State), i.form.isSome = true → i.wellFormed = true → s.takesCommand = true →
    ∃ t r, exec i s = .next t ∧ t.hasAnswered i r ∧ t.pins = s.pins

/-! ### The link -/

/-- The detail that follows NOT_READY: FREEZE's refusal cause RESET_PENDING, and nothing else (R152,
R188). -/
def notReadyDetail (i : Instr) (starting : Bool) : List Byte :=
  match i with
  | .freeze _ => if starting then [] else [0x02]
  | _ => []

/-- The readiness table of R188: READ STATUS answered in every condition, READ IDENTITY answered with the
fields of R190 unless a soft reset is pending, and while the part is STARTING or a soft reset is pending
every other known command, and READ IDENTITY while one is pending, answered NOT_READY with no state changed
but the frame. A code that names no command is answered UNKNOWN_COMMAND in every state of the part, and
changes no state but the frame (R184). -/
def Obligations.NotReadyTurnsCommandsAway : Prop :=
  (∀ (i : Instr) (s : State), i.form.isSome = true → i.wellFormed = true →
    (∀ form, i ≠ .readStatus form) →
    ((∀ form, i ≠ .readIdentity form) ∨ s.resetPending = true) →
    s.takesCommand = true → (s.starting = true ∨ s.resetPending = true) →
    exec i s = .next (s.respond i ⟨.notReady, notReadyDetail i s.starting⟩)) ∧
  (∀ (form : Byte) (s : State), s.takesCommand = true →
    exec (.readStatus form) s = .next (s.respond (.readStatus form) ⟨.ok, s.statusWord⟩)) ∧
  (∀ (code : Byte) (s : State), knownCode code = false → s.takesCommand = true →
    exec (.unknownCommand code) s =
      .next (s.respond (.unknownCommand code) ⟨.unknownCommand, []⟩)) ∧
  ∀ (form : Byte) (s : State), s.takesCommand = true → s.resetPending = false →
    exec (.readIdentity form) s = .next (s.respond (.readIdentity form)
      ⟨.ok, [0x57, 0x06, 0x40, 1, 0x40, 0x00, 0x02, 0x00, 0x00, 16, 4, 64, 8,
        BitVec.ofNat 8 s.link.lanes, if s.starting then 1 else 0]⟩)

/-- With no frame in phase CODE, the link brings no command: a host command or an unknown code changes
nothing, but for READ STATUS in its own frame (R179, R180, R186, R189). The model's reading of a row as
the arrival of the last byte is log entry 1. -/
def Obligations.CommandsNeedOpenFrame : Prop :=
  ∀ (i : Instr) (s : State), i.form.isSome = true ∨ (∃ code, i = .unknownCommand code) →
    s.takesCommand = false → (s.repeatsStatus = false ∨ ∀ form, i ≠ .readStatus form) →
    exec i s = .next s

/-- A command written as its frame's bytes is read back as itself, with every field at every value, and no
shorter part of the frame is read as a command; and so is a command written as its frame's clocks on one, two
or four lanes, whatever the lanes that are not in use carry: the code byte on D0 alone, the rest on the live
lane count, and a byte of which some clocks are missing is discarded (R180, R181, R211, R212). -/
def Obligations.FrameBytesRoundTrip : Prop :=
  ∀ i : Instr, i.form.isSome = true ∨ (∃ code, i = .unknownCommand code) → i.wellFormed = true →
    (decodeFrame i.frameBytes = some i ∧
      ∀ n, n < i.frameBytes.length → decodeFrame (i.frameBytes.take n) = none) ∧
    ∀ (lanes : Nat) (sampled : List Lanes), lanes = 1 ∨ lanes = 2 ∨ lanes = 4 →
      sampled.length = (i.frameClocks lanes).length →
      (∀ k x y, sampled[k]? = some x → (i.frameClocks lanes)[k]? = some y → ∀ lane,
        lane < (if k < 8 then 1 else lanes) → x.getLsbD lane = y.getLsbD lane) →
      frameBytesOf lanes sampled = i.frameBytes ∧ decodeClocks lanes sampled = some i ∧
        ∀ n, n < sampled.length → decodeClocks lanes (sampled.take n) = none

/-- A fall of SEL opens a frame in phase CODE (R179, R180), and with SEL already low nothing falls (log
entry 4). What the rise of SEL makes of the last link result (R183, R184, R185): TRUNCATED before the last
argument byte, CUT_SHORT before the last response byte, COMPLETE after it, UNKNOWN_CODE for an unknown code,
and unchanged before the code byte is complete, in DISCARD, and for READ STATUS and READ IDENTITY. The
frame is gone, and the next one runs on the live lane count (R187). The count of clocks is the model's log
entry 17. -/
def Obligations.FramesOpenAndEnd : Prop :=
  (∀ s : State, s.pins.selectLow = false → s.pins.held = false →
    exec .frameOpen s = .next ((s.withPins ⟨true, s.pins.held⟩).withLink
      { s.link with frame := some ⟨.code, none, [], []⟩ })) ∧
  (∀ s : State, s.pins.selectLow = true → exec .frameOpen s = .next s) ∧
  ∀ (sampled : List Lanes) (s : State) (f : Frame), s.pins.selectLow = true →
    s.link.frame = some f → s.link.resetOrdered = false →
    ∃ result, exec (.frameEnd sampled) s = .next ((s.withPins ⟨false, s.pins.held⟩).withLink
        ⟨none, s.settings.linkLanes, result, false⟩) ∧
      (f.phase = .discard → result = s.link.lastResult) ∧
      (f.phase = .code → sampled.length < 8 → result = s.link.lastResult) ∧
      (f.phase = .code → 8 ≤ sampled.length →
        ∀ code, code = byteOfClocks 1 (sampled.take 8) →
          result = if code = 0x70#8 ∨ code = 0x71#8 then s.link.lastResult
            else if knownCode code then .truncated else .unknownCode) ∧
      (f.phase = .arguments → result = .truncated) ∧
      (f.phase = .turnaround ∨ f.phase = .response → ∀ code, f.code = some code →
        result = if code = 0x70#8 ∨ code = 0x71#8 then s.link.lastResult
          else if knownCode code = false then .unknownCode
          else if (1 + f.response.length) * (8 / s.link.lanes) ≤ sampled.length then .complete
          else .cutShort)

/-- What the part drives from the moment of effect on: TURNAROUND for one byte time, in which it drives no
lane, and then RESPONSE, in which it drives exactly the lanes in use, one byte per byte time, most significant
bits first: the response's own bytes and after the last of them 00h for as long as the host clocks, or in a
READ STATUS frame the status word again and again. UNKNOWN_COMMAND is followed by 00h in the same way. In
every other phase, and with no frame, it drives nothing (R179, R180, R182, R184, R189, R209). When the first
copy of the status word is built is the model's log entry 16. -/
def Obligations.ResponseDriven : Prop :=
  ∀ (s : State) (i : Instr) (r : Response) (n count : Nat), i.wellFormed = true →
    s.hasAnswered i r → s.link.lanes = 1 ∨ s.link.lanes = 2 ∨ s.link.lanes = 4 →
    n = 8 / s.link.lanes →
    (∀ f, s.link.frame = some f → ∀ k,
      (f.clocked s.link.lanes k).phase = if k < n then .turnaround else .response) ∧
    (∀ k, k < n → (s.drivenAt k).driven = 0#4) ∧
    (∀ k, n ≤ k → ∀ lane, lane < 4 →
      (s.drivenAt k).driven.getLsbD lane = decide (lane < s.link.lanes)) ∧
    ((∀ form, i ≠ .readStatus form) →
      bytesOfClocks s.link.lanes (((s.drivenClocks ((1 + count) * n)).drop n).map (·.level)) =
        (r.bytes ++ List.replicate count 0#8).take count) ∧
    (∀ form, i = .readStatus form → r.data.length = 8 →
      bytesOfClocks s.link.lanes (((s.drivenClocks ((1 + count) * n)).drop n).map (·.level)) =
        (r.bytes ++ (List.replicate count s.statusWord).flatten).take count) ∧
    ∀ (t : State) (k : Nat), (∀ f, t.link.frame = some f →
      f.phase = .code ∨ f.phase = .arguments ∨ f.phase = .discard) →
      (t.drivenAt k).driven = 0#4

/-- READ STATUS answers the status word in every state of the part; in its own frame each further row drives
one more copy, built from the state as it then stands; it changes nothing else (R189, R203). The word shows
each flag at the bit R214 gives it. That the first copy is the state at the moment of effect, and the
repeat a further row, is the model's log entry 16. -/
def Obligations.ReadStatusAnswers : Prop :=
  (∀ (form : Byte) (s : State), s.takesCommand = true →
    exec (.readStatus form) s = .next (s.respond (.readStatus form) ⟨.ok, s.statusWord⟩)) ∧
  (∀ (form : Byte) (s : State) (f : Frame), s.repeatsStatus = true → s.link.frame = some f →
    exec (.readStatus form) s = .next (s.withLink { s.link with
      frame := some { f with phase := .response, response := f.response ++ s.statusWord } })) ∧
  ∀ s : State, s.queue.length ≤ 8 →
    ∃ b0 b1 : Byte, s.statusWord = [b0, b1, s.resolution.condition.byte,
        flagByte [s.resolution.positionClamped, s.resolution.indexClamped, s.resolution.gainHigh,
          s.resolution.gainLow], s.link.lastResult.byte,
        ((s.engine.lastCommit.map (·.outcome.byte)).getD 0), 0, 0] ∧
      b0.getLsbD 0 = s.starting ∧ b0.getLsbD 1 = s.engine.inFlight.isSome ∧
      b0.getLsbD 2 = s.resetPending ∧ b0.getLsbD 3 = s.engine.frozen ∧
      b0.getLsbD 4 = s.notices.armed ∧ b0.getLsbD 5 = s.notices.latched ∧
      b0.getLsbD 6 = false ∧ b0.getLsbD 7 = false ∧
      b1.toNat / 16 = s.queue.length ∧ b1.toNat % 16 = s.readyCount

/-! ### Resets and start-up -/

/-- Every block at the value its chapter gives it after a reset, over a store: STARTING, the live settings
taken from the stored ones or the factory values, and nothing in progress (R22, R56, R79, R107, R111, R126,
R157, R178, R179, R201, R208). The indexes before the scan are log entry 9. -/
def blocksAtReset (t : State) (store : Store) : Prop :=
  t.starting = true ∧ t.resetPending = false ∧ t.store = store ∧
    t.link.lanes = (store.settings.getD Settings.factory).linkLanes ∧ t.link.lastResult = .none ∧
    t.link.resetOrdered = false ∧
    t.index = ⟨[], [], 16384 - store.records.length,
      131072 - (store.records.map (·.segments.length)).sum⟩ ∧
    t.resolution = ⟨.none, false, false, false, false⟩ ∧
    (∀ n, t.cursors.get n = Cursor.closed) ∧
    (∀ v, t.volumes.get v =
      ⟨if ((store.settings.getD Settings.factory).policies.get v).registered then .online
        else .unregistered, 0, .idle⟩) ∧
    t.engine = ⟨none, false, none⟩ ∧ t.queue = [] ∧
    t.notices = ⟨false, false, false, false, 0, 0, 0, 0, 0, 0, false, false⟩ ∧
    t.settings = store.settings.getD Settings.factory ∧ t.milliseconds = 0

/-- RESET is answered OK. With the engine COMMITTING it sets RESET_PENDING at once; otherwise the soft reset
is ordered for the end of the frame, where it takes effect when SEL rises, or sets RESET_PENDING when the
engine has begun a commit by then. A pending soft reset takes effect at the completion of the commit it
waits for, over the store that the completion leaves: the new version with DONE, the old one with
STORE_FAULT. Every block takes its reset state, the queue is emptied and no READY entry is taken (R148, R154,
R192, R193). That the completion does not wait for RESET's own frame to end is the model's log entry 30. -/
def Obligations.ResetTakesEffect : Prop :=
  (∀ (form : Byte) (s : State), s.ready →
    (s.engine.inFlight.isSome = true → exec (.reset form) s =
      .next ((s.withResetPending true).respond (.reset form) ⟨.ok, []⟩)) ∧
    (s.engine.inFlight = none → exec (.reset form) s =
      .next ((s.withLink { s.link with resetOrdered := true }).respond (.reset form) ⟨.ok, []⟩))) ∧
  (∀ (sampled : List Lanes) (s : State), s.pins.selectLow = true → s.link.resetOrdered = true →
    (s.engine.inFlight = none → exec (.frameEnd sampled) s =
      .next (State.startUp s.pending false s.store s.openValues) ∧
      blocksAtReset (State.startUp s.pending false s.store s.openValues) s.store) ∧
    (s.engine.inFlight.isSome = true → ∃ t, exec (.frameEnd sampled) s = .next t ∧
      t.resetPending = true ∧ t.engine = s.engine ∧ t.link.frame = none ∧
      t.store = s.store ∧ t.queue = s.queue ∧ t.cursors = s.cursors)) ∧
  ∀ (s : State) (f : InFlight), s.engine.inFlight = some f → s.resetPending = true →
    (∃ k, exec .commitComplete s = .next
      (State.startUp s.pending s.pins.selectLow (f.change.applyStore s.store) k)) ∧
    ∃ k, exec .commitStoreFault s = .next (State.startUp s.pending s.pins.selectLow s.store k)

/-- A hard reset abandons the frame and the commit in flight, holds every block at its reset state and
NOTICE low, takes no frame, and leaves the store with the change in flight entirely in force when its closing
mark had been written, and in no version when it had not (R11, R56, R156, R191). RESET_N released starts the
part: every block at its reset state, and no frame, or one in DISCARD when SEL is low (R179). The operand for
the closing mark is log entry 7, what a held part shows is log entry 22, and the indexes before the scan are
log entry 9: these are the model's choices. -/
def Obligations.HardResetAndRelease : Prop :=
  (∀ (mark : Bool) (s : State), ∃ t, exec (.hardReset mark) s = .next t ∧
    blocksAtReset t (match s.engine.inFlight with
      | some f => if mark then f.change.applyStore s.store else s.store
      | none => s.store) ∧
    t.link.frame = none ∧ t.noticeHigh = false ∧ t.pins = ⟨s.pins.selectLow, true⟩ ∧
    (∀ i : Instr, i.form.isSome = true → exec i t = .next t) ∧
    ∀ k, (t.drivenAt k).driven = 0#4) ∧
  ∀ s : State, s.pins.held = true → ∃ t, exec .resetNRelease s = .next t ∧ blocksAtReset t s.store ∧
    t.pins = ⟨s.pins.selectLow, false⟩ ∧
    t.link.frame = (if s.pins.selectLow then some ⟨.discard, none, [], []⟩ else none) ∧
    t.statusWord = [1, 0, 0, 0, 0, 0, 0, 0]

/-- The start-up scan completes: one index entry a record with use count 0 and pending no, the carrier index
of the records that are not WITHDRAWN, the free lists rebuilt, STARTING no, and STARTED raised (R13, R14,
R20, R22, R38). -/
def Obligations.ScanCompletes : Prop :=
  ∀ s : State, s.starting = true → s.pins.held = false →
    ∃ n, exec .scanComplete s = .next
      (((s.withIndex ⟨s.store.records.map fun r => ⟨r.accession, 0, false⟩,
          carriersOf s.store.records, 16384 - s.store.records.length,
          131072 - (s.store.records.map (·.segments.length)).sum⟩).withStarting false).withNotices n) ∧
      n = ({ s.notices with started := true }).testLatch s.settings.noticeEnables

/-! ### The lookups -/

/-- READ ITEM answers the record's header with its use count and pending field, or NOT_FOUND, and READ
SEGMENTS the record's state, duration and revision and the segments asked for, or NOT_FOUND or MALFORMED
(R16, R39, R211, R212). READ PENDING, READ CURSOR and READ VOLUMES report their tables as they stand (R105,
R125, R177). None of the five changes anything but the frame. -/
def Obligations.ReadsAnswer : Prop :=
  (∀ (form : Byte) (accession : BitVec 24) (first maximum : Byte) (s : State), s.ready →
    exec (.readItem form accession) s = .next (s.respond (.readItem form accession)
      (match s.record? accession.toNat with
        | none => ⟨.notFound, []⟩
        | some r => ⟨.ok, (headerOfRecord r (s.index.useCount accession.toNat)
            (s.index.isPending accession.toNat)).bytes⟩)) ∧
    exec (.readSegments form accession first maximum) s =
      .next (s.respond (.readSegments form accession first maximum)
        (if 63 < first.toNat ∨ 64 < maximum.toNat then ⟨.malformed, [0x14, 0x41]⟩
        else match s.record? accession.toNat with
          | none => ⟨.notFound, []⟩
          | some r =>
            let shown := (r.segments.drop first.toNat).take
              (if maximum = 0#8 then 64 else maximum.toNat)
            ⟨.ok, [r.state.byte] ++ bytesOf 5 r.duration ++ bytesOf 2 r.revision.toNat
              ++ bytesOf 1 r.segments.length ++ bytesOf 1 shown.length
              ++ (shown.zipIdx first.toNat).flatMap
                fun x => bytesOf 1 x.2 ++ (wireOfSegment x.1).bytes⟩))) ∧
  ∀ (form cursor first maximum : Byte) (s : State), s.ready →
    exec (.readPending form) s = .next (s.respond (.readPending form)
      ⟨.ok, [BitVec.ofNat 8 s.queue.length, BitVec.ofNat 8 (s.queue.countP (·.state = .ready))]
        ++ s.queue.flatMap fun e => bytesOf 3 e.accession ++ [e.payload.kind.byte, e.state.byte]
          ++ bytesOf 4 e.age ++ bytesOf 1 e.stage ++ [(s.settings.strongest e.stage).byte]
          ++ bytesOf 1 (s.index.useCount e.accession) ++ bytesOf 2 e.payload.payloadLength⟩) ∧
    (∀ n : Fin 16, cursor.toNat = n.val → exec (.readCursor form cursor) s =
      .next (s.respond (.readCursor form cursor) ⟨.ok, (s.cursors.get n).bytes⟩)) ∧
    (15 < cursor.toNat → exec (.readCursor form cursor) s =
      .next (s.respond (.readCursor form cursor) ⟨.malformed, [0x14, 0x41]⟩)) ∧
    ∀ count, count = min (if maximum = 0#8 then 64 else maximum.toNat) (64 - first.toNat) →
      exec (.readVolumes form first maximum) s = .next (s.respond (.readVolumes form first maximum)
        (if 63 < first.toNat ∨ 64 < maximum.toNat then ⟨.malformed, [0x14, 0x41]⟩
        else ⟨.ok, [BitVec.ofNat 8 count] ++ (List.range count).flatMap fun k =>
          bytesOf 1 (first.toNat + k) ++ [flagByte [
            (s.settings.policies.get (Fin.ofNat 64 (first.toNat + k))).registered,
            (s.settings.policies.get (Fin.ofNat 64 (first.toNat + k))).autoProbe,
            (s.settings.policies.get (Fin.ofNat 64 (first.toNat + k))).autoReturn]]
          ++ (s.volumes.get (Fin.ofNat 64 (first.toNat + k))).bytes⟩))

/-- ENUMERATE lists, in ascending accession from the start accession, the records whose state the mask
names, at most the count asked for, with the first one left out as the continuation (R13, R17, R211). FIND
CARRIER lists the ACTIVE and CERTIFIED records of one carrier id, of the kind filtered for, that stand at or
above the start point, in order of side, track and accession (R14, R18). A count above 32, and for FIND
CARRIER a count above 16, a kind filter above 7 or a side above 15, is refused MALFORMED. -/
def Obligations.CatalogueListsAnswer : Prop :=
  (∀ (form : Byte) (start : BitVec 24) (mask maximum : Byte) (s : State), s.ready →
    (32 < maximum.toNat → exec (.enumerate form start mask maximum) s =
      .next (s.respond (.enumerate form start mask maximum) ⟨.malformed, [0x14, 0x41]⟩)) ∧
    (s.catalogueKept → maximum.toNat ≤ 32 →
    ∀ found, found = s.store.records.filter
      (fun r => decide (start.toNat ≤ r.accession) && maskNames mask r.state) →
    ∀ n, n = (if maximum = 0#8 then 32 else maximum.toNat) →
    exec (.enumerate form start mask maximum) s =
      .next (s.respond (.enumerate form start mask maximum)
        ⟨.ok, bytesOf 2 s.store.records.length ++ bytesOf 2 s.index.vacantSlots
          ++ bytesOf 3 s.index.freeSegments ++ bytesOf 1 (min n found.length)
          ++ (if n < found.length then [1] else [0])
          ++ bytesOf 3 (((found[n]?).map (·.accession)).getD 0)
          ++ (found.take n).flatMap
            fun r => bytesOf 3 r.accession ++ [r.state.byte] ++ bytesOf 2 r.revision.toNat⟩))) ∧
  ∀ (form : Byte) (carrierId : BitVec 32) (kindFilter side track : Byte) (start : BitVec 24)
    (maximum : Byte) (s : State), s.ready →
    (16 < maximum.toNat ∨ 7 < kindFilter.toNat ∨ 15 < side.toNat →
      exec (.findCarrier form carrierId kindFilter side track start maximum) s =
        .next (s.respond (.findCarrier form carrierId kindFilter side track start maximum)
          ⟨.malformed, [0x14, 0x41]⟩)) ∧
    (s.catalogueKept → maximum.toNat ≤ 16 → kindFilter.toNat ≤ 7 → side.toNat ≤ 15 →
    ∃ found : List ItemRecord,
      (∀ r, r ∈ found ↔ r ∈ s.store.records ∧ r.state ≠ .withdrawn ∧
        r.carrierId = carrierId.toNat ∧ (kindFilter = 0#8 ∨ r.carrierKind.byte = kindFilter) ∧
        (side.toNat < r.side ∨ side.toNat = r.side ∧ (track.toNat < r.track ∨
          track.toNat = r.track ∧ start.toNat ≤ r.accession))) ∧
      found.Pairwise (fun a b => a.side < b.side ∨ a.side = b.side ∧ (a.track < b.track ∨
        a.track = b.track ∧ a.accession < b.accession)) ∧
      ∀ n, n = (if maximum = 0#8 then 16 else maximum.toNat) →
      exec (.findCarrier form carrierId kindFilter side track start maximum) s =
        .next (s.respond (.findCarrier form carrierId kindFilter side track start maximum)
          ⟨.ok, bytesOf 1 (min n found.length) ++ (if n < found.length then [1] else [0])
            ++ bytesOf 1 (((found[n]?).map (·.side)).getD 0)
            ++ bytesOf 1 (((found[n]?).map (·.track)).getD 0)
            ++ bytesOf 3 (((found[n]?).map (·.accession)).getD 0)
            ++ (found.take n).flatMap fun r => bytesOf 1 r.side ++ bytesOf 1 r.track
              ++ bytesOf 3 r.accession ++ [r.carrierKind.byte, r.state.byte]⟩))

/-- LOCATE changes nothing but the frame and, with REPORT, the condition field; on a stored position it
answers AUDIO with the index, offset and gain of Position Arithmetic on the copy that PRIMARY_FIRST chooses;
at the item's end it answers END. With REPORT the sticky flags are those the answer calls for (R44, R51 to
R55, R77, R78, R131). -/
def Obligations.LocateAnswers : Prop :=
  ∀ (form : Byte) (accession : BitVec 24) (position : BitVec 40) (clearance : Byte) (s : State),
    s.ready →
    (∃ r answer, exec (.locate form accession position clearance) s =
        .next ((s.withResolution r).respond (.locate form accession position clearance) answer) ∧
      (reportForm form = false → r = s.resolution)) ∧
    ∀ record p w, clearance.toNat ≤ 7 → position.toNat ≤ 68719476735 →
      s.record? accession.toNat = some record → record.state ≠ .withdrawn →
      record.restriction ≤ clearance.toNat →
      (strictForm form = false ∨ position.toNat ≤ record.duration) →
      p = min position.toNat record.duration →
      w = buildPath ⟨s.store.records, clearance.toNat, fun _ => .none⟩ record.accession p →
      w.stop = none →
      (p = record.duration → exec (.locate form accession position clearance) s =
        .next ((s.noteCondition form .above
            (Sticky.ofPosition (decide (record.duration < position.toNat)))).respond
          (.locate form accession position clearance)
          ⟨.ok, Descriptor.bytes {
            lead := 1, kind := .end_, topStart := p, leafAccession := record.accession,
            leafSegment := record.segments.length }⟩)) ∧
      ∀ f g t copy place delta, p < record.duration →
        leafOf s.store.records w.path = .transfer f g t →
        delta = ((p : Int) - f.displacement - g.start).toNat →
        delta * t.rate * t.nominal / (t.speed * 1000000) < t.count →
        t.chooseCopy s.volumes .primaryFirst = some (copy, place) →
        ∃ clamped, exec (.locate form accession position clearance) s =
          .next ((s.noteCondition form .within
              ⟨false, false, decide (120 < rawGain s.store.records 0 w.path),
                decide (rawGain s.store.records 0 w.path < -600)⟩).respond
            (.locate form accession position clearance)
            ⟨.ok, Descriptor.bytes {
              lead := w.path.length, kind := .audio, topStart := p,
              leafAccession := f.accession, leafSegment := f.segment, copy := some copy,
              volume := place.volume.val, file := place.file,
              byteOffset := place.base +
                delta * t.rate * t.nominal / (t.speed * 1000000) * (t.channels * t.width),
              indexStart := delta * t.rate * t.nominal / (t.speed * 1000000),
              frameBytes := t.channels * t.width, rate := t.rate, gainClamped := clamped,
              gain := max (-600) (min 120 (rawGain s.store.records 0 w.path)) }⟩) ∧
          (clamped = true ↔ rawGain s.store.records 0 w.path < -600 ∨
            120 < rawGain s.store.records 0 w.path)

/-- LOCATE's refusals in their order, and its answers that are not AUDIO or END: MALFORMED, NOT_FOUND,
WITHDRAWN with the successor, RESTRICTED at the top or at a push, RANGE in the strict form; FAULTED with the
code and the frames pushed before it, GAP over a LACUNA, an overhang, and a stored index at the count or,
with INDEX_CLAMPED, beyond it, and UNAVAILABLE where no copy can be chosen (R45, R53, R55, R58, R77, R78). -/
def Obligations.LocateElsewhere : Prop :=
  ∀ (form : Byte) (accession : BitVec 24) (position : BitVec 40) (clearance : Byte) (s : State),
    s.ready →
    ∀ answers : (State → Response → Prop), (answers = fun t answer =>
      exec (.locate form accession position clearance) s =
        .next (t.respond (.locate form accession position clearance) answer)) →
    (7 < clearance.toNat ∨ 68719476735 < position.toNat → answers s ⟨.malformed, [0x14, 0x41]⟩) ∧
    (clearance.toNat ≤ 7 → position.toNat ≤ 68719476735 →
      (s.record? accession.toNat = none → answers s ⟨.notFound, []⟩) ∧
      ∀ record, s.record? accession.toNat = some record →
        (record.state = .withdrawn →
          answers s ⟨.withdrawn, bytesOf 3 (record.successor.getD 0)⟩) ∧
        (record.state ≠ .withdrawn → clearance.toNat < record.restriction →
          answers s ⟨.restricted, []⟩) ∧
        (record.state ≠ .withdrawn → record.restriction ≤ clearance.toNat →
          (strictForm form = true → record.duration < position.toNat →
            answers (s.noteCondition form .above Sticky.none) ⟨.range, []⟩) ∧
          (position.toNat < record.duration → ∀ w raw,
            w = buildPath ⟨s.store.records, clearance.toNat, fun _ => .none⟩ record.accession
              position.toNat →
            raw = rawGain s.store.records 0 w.path →
            (w.stop = some (.fault .restrictedTarget) → answers s ⟨.restricted, []⟩) ∧
            (∀ code, w.stop = some (.fault code) → code ≠ .restrictedTarget →
              answers (s.noteCondition form .none Sticky.none) ⟨.ok, Descriptor.bytes {
                lead := w.path.length, kind := .faulted, topStart := position.toNat,
                fault := some code }⟩) ∧
            (w.stop = none →
              (∀ f, leafOf s.store.records w.path = .overhang f ∨
                  (∃ g, leafOf s.store.records w.path = .lacuna f g) →
                answers (s.noteCondition form .gap Sticky.none) ⟨.ok, Descriptor.bytes {
                  lead := w.path.length, kind := .gap, topStart := position.toNat,
                  leafAccession := f.accession, leafSegment := f.segment }⟩) ∧
              ∀ f g t delta index, leafOf s.store.records w.path = .transfer f g t →
                delta = ((position.toNat : Int) - f.displacement - g.start).toNat →
                index = delta * t.rate * t.nominal / (t.speed * 1000000) →
                (t.count ≤ index → answers
                  (s.noteCondition form .gap ⟨false, decide (t.count < index), false, false⟩)
                  ⟨.ok, Descriptor.bytes {
                    lead := w.path.length, kind := .gap, topStart := position.toNat,
                    leafAccession := f.accession, leafSegment := f.segment,
                    indexClamped := decide (t.count < index) }⟩) ∧
                (index < t.count → t.chooseCopy s.volumes .primaryFirst = none → answers
                  (s.noteCondition form .none ⟨false, false, decide (120 < raw), decide (raw < -600)⟩)
                  ⟨.ok, Descriptor.bytes {
                    lead := w.path.length, kind := .unavailable, topStart := position.toNat,
                    leafAccession := f.accession, leafSegment := f.segment, indexStart := index,
                    frameBytes := t.channels * t.width, rate := t.rate,
                    gainClamped := decide (120 < raw ∨ raw < -600),
                    gain := max (-600) (min 120 raw) }⟩)))))

/-! ### Changes -/

/-- The acceptance checks answer a change command by the first that fails, in the order of R134: FROZEN,
PROTECTED, the record state refusal, the content refusal, PENDING_EXISTS. A refusal changes nothing but the
frame (R134 to R139). -/
def Obligations.AcceptanceOrder : Prop :=
  ∀ (i : Instr) (c : Change) (strict : Bool) (s : State), i.wellFormed = true →
    s.changeOf i = some (c, strict) → s.ready →
    (s.engine.frozen = true → exec i s = .next (s.respond i ⟨.frozen, []⟩)) ∧
    (s.engine.frozen = false → s.protectsChange c = true →
      exec i s = .next (s.respond i ⟨.underProtection, []⟩)) ∧
    (∀ code, s.engine.frozen = false → s.protectsChange c = false →
      s.recordRefusal c strict = some code → exec i s = .next (s.respond i ⟨code, []⟩)) ∧
    (∀ answer, s.engine.frozen = false → s.protectsChange c = false →
      s.recordRefusal c strict = none → s.contentRefusal c = some answer →
      exec i s = .next (s.respond i answer)) ∧
    (s.engine.frozen = false → s.protectsChange c = false → s.recordRefusal c strict = none →
      s.contentRefusal c = none → s.entryRefusal c = true →
      exec i s = .next (s.respond i ⟨.pendingExists, []⟩))

/-- The tables behind the acceptance checks. Record state: every cell of R7, CLEAR HOLDINGS refused IN_USE
while any cursor is not CLOSED, STORE SETTINGS passing (R7, R136). Protection: the window of R135 on the
accession named, and for CLEAR HOLDINGS on every record it would remove. Content: the certification reasons of
R138 in their order, the successor of a retirement, the fields of SET ITEM FIELDS (R137). Pending entry: R139. -/
def Obligations.ChecksFollowTables : Prop :=
  (∀ (s : State) (c : Change) (strict : Bool), c.namesItem = true →
    (c.kind = .writeItem → s.record? c.accession = none → s.recordRefusal c strict = none) ∧
    (c.kind ≠ .writeItem → s.record? c.accession = none →
      s.recordRefusal c strict = some .notFound) ∧
    ∀ r, s.record? c.accession = some r →
      (c.kind = .writeItem → strict = true → s.recordRefusal c strict = some .exists_) ∧
      (c.kind = .writeItem → strict = false → s.recordRefusal c strict =
        match r.state with
        | .active => none
        | .certified => some .locked
        | .withdrawn => some .withdrawn) ∧
      (c.kind = .amendSegments ∨ c.kind = .certifyItem ∨ c.kind = .retireItem →
        s.recordRefusal c strict =
          match r.state with
          | .active => none
          | .certified => some .locked
          | .withdrawn => some .withdrawn) ∧
      (∀ a fields, c = .setItemFields a fields → s.recordRefusal c strict =
        match r.state with
        | .active => none
        | .withdrawn => some .withdrawn
        | .certified =>
          if fields.namesTrim ∨ fields.namesKind ∨ fields.namesCarrierId ∨ fields.namesSide ∨
              fields.namesTrack ∨ (fields.namesGrade ∧ fields.grade = 0#8) then some .locked
          else none) ∧
      (c.kind = .purgeItem → s.recordRefusal c strict =
        match r.state with
        | .active => some .exists_
        | .certified => some .locked
        | .withdrawn => if s.index.useCount c.accession = 0 then none else some .inUse)) ∧
  (∀ (s : State) (strict : Bool), (s.recordRefusal .clearHoldings strict =
      if ∃ n, (s.cursors.get n).state ≠ .closed then some .inUse else none) ∧
    ∀ snapshot, s.recordRefusal (.storeSettings snapshot) strict = none) ∧
  (∀ (s : State) (a : Nat), s.settings.protects a = true ↔
    s.settings.protectionEnabled = true ∧
      (if s.settings.protectionInvert = true then
        a < s.settings.protectionLow ∨ s.settings.protectionHigh < a
      else s.settings.protectionLow ≤ a ∧ a ≤ s.settings.protectionHigh)) ∧
  (∀ (s : State) (c : Change), c.namesItem = true →
    s.protectsChange c = s.settings.protects c.accession) ∧
  (∀ s : State, (s.protectsChange .clearHoldings = true ↔
      ∃ r ∈ s.store.records, r.state ≠ .certified ∧ s.settings.protects r.accession = true) ∧
    ∀ snapshot, s.protectsChange (.storeSettings snapshot) = false) ∧
  (∀ (s : State) (a : Nat) (r : ItemRecord), s.record? a = some r →
    (r.grade = 0 → s.contentRefusal (.certifyItem a) = some ⟨.incomplete, [0x20, 0x40]⟩) ∧
    (r.grade ≠ 0 → ∀ before g after, r.segments = before ++ g :: after →
      (∀ x ∈ before, ∀ trim target offset, x.body ≠ .reference trim target offset) →
      (∃ trim target offset, g.body = .reference trim target offset) →
      s.contentRefusal (.certifyItem a) =
        some ⟨.incomplete, [0x21, BitVec.ofNat 8 before.length]⟩) ∧
    (r.grade ≠ 0 → (∀ x ∈ r.segments, ∀ trim target offset, x.body ≠ .reference trim target offset) →
      (∀ before g after, r.segments = before ++ g :: after →
        (∀ x ∈ before, ∀ trim d, x.body = .transfer trim d → d.secondary ≠ none) →
        (∃ trim d, g.body = .transfer trim d ∧ d.secondary = none) →
        s.contentRefusal (.certifyItem a) =
          some ⟨.incomplete, [0x22, BitVec.ofNat 8 before.length]⟩) ∧
      ((∀ x ∈ r.segments, ∀ trim d, x.body = .transfer trim d → d.secondary ≠ none) →
        s.contentRefusal (.certifyItem a) = none))) ∧
  (∀ (s : State) (a successor : Nat),
    (s.contentRefusal (.retireItem a successor) = none ↔ successor = 0 ∨ successor ≠ a ∧
      ∃ r, s.record? successor = some r ∧ r.state ≠ .withdrawn) ∧
    ∀ answer, s.contentRefusal (.retireItem a successor) = some answer →
      answer = ⟨.malformed, [0x13, 0x41]⟩) ∧
  (∀ (s : State) (a : Nat) (f : WireFields),
    (s.contentRefusal (.setItemFields a f) = none ↔
      (f.namesTrim ∨ f.namesRestriction ∨ f.namesGrade ∨ f.namesKind ∨ f.namesCarrierId ∨
        f.namesSide ∨ f.namesTrack) ∧
      (f.namesTrim → -600 ≤ f.trim.toInt ∧ f.trim.toInt ≤ 120) ∧
      (f.namesRestriction → f.restriction.toNat ≤ 7) ∧ (f.namesGrade → f.grade.toNat ≤ 5) ∧
      (f.namesKind → 1 ≤ f.carrierKind.toNat ∧ f.carrierKind.toNat ≤ 7) ∧
      (f.namesCarrierId → 1 ≤ f.carrierId.toNat) ∧ (f.namesSide → f.side.toNat ≤ 15)) ∧
    ∀ answer, s.contentRefusal (.setItemFields a f) = some answer →
      answer = ⟨.malformed, [0x01, 0x41]⟩) ∧
  ∀ (s : State) (c : Change),
    (c.namesItem = true → (s.entryRefusal c = true ↔ ∃ e ∈ s.queue, e.accession = c.accession)) ∧
    (s.entryRefusal .clearHoldings = true ↔ s.queue ≠ []) ∧
    ∀ snapshot, s.entryRefusal (.storeSettings snapshot) = false

/-- The routing table, for a change that passes every check. BUSY where the change in flight is a CLEAR
HOLDINGS or names the same accession. DEFERRED for a replacement, amendment or retirement of an item in use:
it joins the queue last in arrival order, WAITING, of age 0 and stage 0, with the item's pending field yes, and
with tHOLD1 at 0 it reaches stage 1 as it joins; with eight entries it is answered QUEUE_FULL and nothing joins.
BUSY for any other change while the engine is COMMITTING. NO_SPACE where the slot or the segments it needs are
not free. Otherwise ACCEPTED: the commit starts with source DIRECT, and the slot and segments it needs become
provisional. A create needs a slot and cannot be deferred; a replacement, an amendment and a retirement can; a
written list and an amendment's run need their segments; no other change needs space or can be deferred (R35,
R36, R133, R140, R142, R158, R159, R167). -/
def Obligations.ChangeRouted : Prop :=
  (∀ (i : Instr) (c : Change) (strict : Bool) (s : State), i.wellFormed = true →
    s.changeOf i = some (c, strict) → s.ready → s.passesChecks c strict →
    s.engine.inFlight = none →
    (c.deferrable s.store.records = false ∨ s.index.useCount c.accession = 0) →
    c.slotsNeeded s.store.records ≤ s.index.vacantSlots →
    c.segmentsNeeded ≤ s.index.freeSegments →
    exec i s = .next (((s.withEngine { s.engine with
        inFlight := some ⟨c, .direct, c.slotsNeeded s.store.records, c.segmentsNeeded⟩ }).withIndex
      { s.index with
        vacantSlots := s.index.vacantSlots - c.slotsNeeded s.store.records
        freeSegments := s.index.freeSegments - c.segmentsNeeded }).respond i
      ⟨.accepted, bytesOf 3 c.accession ++ [c.kind.byte]⟩)) ∧
  (∀ (i : Instr) (c : Change) (strict : Bool) (s : State), i.wellFormed = true →
    s.changeOf i = some (c, strict) → s.ready → s.passesChecks c strict →
    s.blockedByFlight c = false → c.deferrable s.store.records = true →
    0 < s.index.useCount c.accession →
    (s.queue.length < 8 → ∀ joined,
      joined = (s.withQueue (s.queue ++ [⟨c.accession, c, .waiting, 0, 0⟩])).withIndex
        (s.index.setPending c.accession true) →
      (s.readyTaken → 0 < s.settings.tHold1 → exec i s =
        .next (joined.respond i ⟨.deferred, [BitVec.ofNat 8 (s.queue.length + 1)]⟩)) ∧
      ∃ t, exec i s = .next (t.respond i ⟨.deferred, [BitVec.ofNat 8 (s.queue.length + 1)]⟩) ∧
        (∀ accession : BitVec 24, accession.toNat = c.accession →
          exec (.stageReached accession) joined = .next t) ∧
        (s.settings.tHold1 = 0 → ∀ e ∈ t.queue, e.accession = c.accession → 1 ≤ e.stage)) ∧
    (8 ≤ s.queue.length → exec i s = .next (s.respond i ⟨.queueFull, []⟩))) ∧
  (∀ records : List ItemRecord, ∀ needs : (Change → Nat → Nat → Bool → Prop),
    (needs = fun c slots segments deferred => c.slotsNeeded records = slots ∧
      c.segmentsNeeded = segments ∧ c.deferrable records = deferred) →
    (∀ h segments, needs (.writeItem h segments)
      (if findRecord records h.accession.toNat = none then 1 else 0) segments.length
      (decide (findRecord records h.accession.toNat ≠ none))) ∧
    (∀ a first k m run, needs (.amendSegments a first k m run) 0 run.length true) ∧
    (∀ a successor, needs (.retireItem a successor) 0 0 true) ∧
    (∀ a fields, needs (.setItemFields a fields) 0 0 false) ∧ (∀ a, needs (.certifyItem a) 0 0 false) ∧
    (∀ a, needs (.purgeItem a) 0 0 false) ∧ needs .clearHoldings 0 0 false ∧
    ∀ snapshot, needs (.storeSettings snapshot) 0 0 false) ∧
  ∀ (i : Instr) (c : Change) (strict : Bool) (s : State), i.wellFormed = true →
    s.changeOf i = some (c, strict) → s.ready → s.passesChecks c strict →
    (∀ f, s.engine.inFlight = some f → f.change.kind = .clearHoldings ∨
        (c.namesItem = true ∧ f.change.namesItem = true ∧ f.change.accession = c.accession) →
      exec i s = .next (s.respond i ⟨.busy, []⟩)) ∧
    (c.deferrable s.store.records = false ∨ s.index.useCount c.accession = 0 →
      (s.engine.inFlight.isSome = true → exec i s = .next (s.respond i ⟨.busy, []⟩)) ∧
      (s.engine.inFlight = none → s.index.vacantSlots < c.slotsNeeded s.store.records ∨
          s.index.freeSegments < c.segmentsNeeded →
        exec i s = .next (s.respond i ⟨.noSpace, []⟩)))

/-- The checks of R30 on one segment in the order of its table, each with whether the segment fails it.
`expected` is where the segment must start; the fields stand where the link's layout has them (R212). -/
def segmentTable (duration expected : Nat) (g : WireSegment) : List (Reason × Bool) :=
  let channels := g.format.toNat / 16
  let width := g.format.toNat % 16
  let beyond := fun base : Nat => 2 ^ 48 < base + g.count.toNat * (channels * width)
  [(.kind, decide (g.kind ≠ 1#8 ∧ g.kind ≠ 2#8 ∧ g.kind ≠ 3#8)),
    (.start, decide (g.start.toNat ≠ expected)),
    (.length, decide (g.length.toNat = 0 ∨ duration < g.start.toNat + g.length.toNat)),
    (.trim, decide (g.kind ≠ 3#8 ∧ (g.trim.toInt < -600 ∨ 120 < g.trim.toInt))),
    (.rate, decide (g.kind = 1#8 ∧ g.rate.toNat ∉ [44100, 48000, 88200, 96000, 176400, 192000])),
    (.frame, decide (g.kind = 1#8 ∧ (channels < 1 ∨ 2 < channels ∨ width < 2 ∨ 4 < width))),
    (.speed, decide (g.kind = 1#8 ∧ (g.nominal = 0#16 ∨ g.speed = 0#16 ∨
      8 * g.speed.toNat < g.nominal.toNat ∨ 8 * g.nominal.toNat < g.speed.toNat))),
    (.count, decide (g.kind = 1#8 ∧ (g.count.toNat < 1 ∨ 2 ^ 47 < g.count.toNat))),
    (.placement, decide (g.kind = 1#8 ∧ (63 < g.primaryVolume.toNat ∨
      (63 < g.secondaryVolume.toNat ∧ g.secondaryVolume ≠ 0xFF#8)))),
    (.placementRange, decide (g.kind = 1#8 ∧ (beyond g.primaryBase.toNat ∨
      (g.secondaryVolume ≠ 0xFF#8 ∧ beyond g.secondaryBase.toNat)))),
    (.target, decide (g.kind = 2#8 ∧ g.rate = 0#24)),
    (.offset, decide (g.kind = 2#8 ∧
      2 ^ 36 ≤ g.nominal.toNat * 2 ^ 24 + g.speed.toNat * 2 ^ 8 + g.count.toNat / 2 ^ 40))]

/-- Where the segment at position `k` of a run must start: at the run's start, or at the end of the one before
it (R30). -/
def startIn (start : Nat) (run : List WireSegment) (k : Nat) : Nat :=
  match k with
  | 0 => start
  | j + 1 => ((run[j]?).map fun g => g.start.toNat + g.length.toNat).getD 0

/-- The segment at position `k` fails none of its checks. -/
def segmentPasses (duration start : Nat) (run : List WireSegment) (k : Nat) : Prop :=
  ∀ g, run[k]? = some g → ∀ row ∈ segmentTable duration (startIn start run k) g, row.2 = false

/-- The segment at position `k` is the first of its run that fails, and `reason` is the first check it fails
(R29). -/
def failsFirst (duration start : Nat) (run : List WireSegment) (k : Nat) (reason : Reason) : Prop :=
  (∀ j < k, segmentPasses duration start run j) ∧
    ∃ g before after, run[k]? = some g ∧
      segmentTable duration (startIn start run k) g = before ++ (reason, true) :: after ∧
      ∀ row ∈ before, row.2 = false

/-- The content check of WRITE ITEM takes the header fields, then the segment count, then each segment by the
table of R30, then the end of the list, and that of AMEND SEGMENTS the run arguments, each new segment, the end
of the run, and the resulting length: the first check that fails is reported with its position. A WRITE ITEM
that passes gives a record whose 1 to 64 segments tile it from 0 to its duration, and an AMEND SEGMENTS that
passes leaves a tiled record tiled, over the same duration and with at most 64 segments (R2, R28 to R32,
R137). -/
def Obligations.ContentChecksTile : Prop :=
  (∀ (h : WireHeader) (segments : List WireSegment) (revision : BitVec 16),
    segments.length = expectedSegments h.segmentCount → writeReport h segments = none →
    (recordOfHeader h segments revision).tiled) ∧
  (∀ (r : ItemRecord) (first k m : Nat) (run : List WireSegment), r.tiled → run.length = m →
    amendReport r first k m run = none →
    ({ r with segments := amendedSegments r.segments first k run } : ItemRecord).tiled) ∧
  (∀ (s : State) (h : WireHeader) (segments : List WireSegment) (bad : Prop),
    (bad ↔ h.accession = 0#24 ∨ h.carrierKind.toNat < 1 ∨ 7 < h.carrierKind.toNat ∨ 15 < h.side.toNat ∨
      h.carrierId = 0#32 ∨ h.duration.toNat < 1 ∨ 2 ^ 36 ≤ h.duration.toNat ∨
      7 < h.restriction.toNat ∨ 5 < h.grade.toNat ∨ h.trim.toInt < -600 ∨ 120 < h.trim.toInt) →
    (bad → s.contentRefusal (.writeItem h segments) = some ⟨.malformed, [0x01, 0x40]⟩) ∧
    (¬bad → h.segmentCount.toNat < 1 ∨ 64 < h.segmentCount.toNat →
      s.contentRefusal (.writeItem h segments) = some ⟨.malformed, [0x02, 0x40]⟩) ∧
    (¬bad → 1 ≤ h.segmentCount.toNat → segments.length = h.segmentCount.toNat →
      segments.length ≤ 64 →
      (∀ k reason, failsFirst h.duration.toNat 0 segments k reason →
        s.contentRefusal (.writeItem h segments) =
          some ⟨.malformed, [reason.byte, BitVec.ofNat 8 k]⟩) ∧
      ((∀ k, segmentPasses h.duration.toNat 0 segments k) →
        s.contentRefusal (.writeItem h segments) =
          if startIn 0 segments segments.length = h.duration.toNat then none
          else some ⟨.malformed, [0x0F, BitVec.ofNat 8 (segments.length - 1)]⟩))) ∧
  ∀ (s : State) (a first k m : Nat) (run : List WireSegment) (r : ItemRecord),
    s.record? a = some r →
    (k < 1 ∨ 64 < k ∨ m < 1 ∨ 64 < m ∨ r.segments.length < first + k →
      s.contentRefusal (.amendSegments a first k m run) = some ⟨.malformed, [0x10, 0x41]⟩) ∧
    ∀ (old last : Segment), 1 ≤ k → k ≤ 64 → 1 ≤ m → m ≤ 64 → run.length = m →
      r.segments[first]? = some old → r.segments[first + k - 1]? = some last →
      (∀ j reason, failsFirst r.duration old.start run j reason →
        s.contentRefusal (.amendSegments a first k m run) =
          some ⟨.malformed, [reason.byte, BitVec.ofNat 8 j]⟩) ∧
      ((∀ j, segmentPasses r.duration old.start run j) →
        s.contentRefusal (.amendSegments a first k m run) =
          if startIn old.start run m ≠ last.start + last.length then
            some ⟨.malformed, [0x11, BitVec.ofNat 8 (m - 1)]⟩
          else if 64 < r.segments.length - k + m then some ⟨.malformed, [0x12, 0x41]⟩
          else none)

/-- A completion with DONE, where no soft reset is pending: the new version in force, the last-commit record
set, COMMIT_DONE raised, the engine IDLE, the entry of a QUEUE change gone and its item's pending field no,
every use count and every other pending field kept, a purged record's slot vacant and the places of the list
that was replaced, cut or released free, and every cursor standing but for a position clamped to a shorter
duration. STORE SETTINGS makes its snapshot the stored settings and leaves the records; every other change
leaves the stored settings (R34, R36, R102, R144, R147, R151, R207). The engine then takes the oldest READY
entry in the same step (R148). CLEAR HOLDINGS has its own statement. -/
def Obligations.CommitCompletes : Prop :=
  ∀ (s : State) (f : InFlight), s.engine.inFlight = some f → s.resetPending = false →
    f.change.kind ≠ .clearHoldings →
    ∃ u t, exec .commitComplete s = .next t ∧ exec .takeReadyEntry u = .next t ∧
      (s.readyCount = 0 → t = u) ∧
      u.store = f.change.applyStore s.store ∧
      (∀ snapshot, f.change = .storeSettings snapshot →
        u.store.settings = some snapshot ∧ u.store.records = s.store.records) ∧
      ((∀ snapshot, f.change ≠ .storeSettings snapshot) → u.store.settings = s.store.settings) ∧
      u.engine.inFlight = none ∧ u.engine.frozen = s.engine.frozen ∧
      (∃ revision, u.engine.lastCommit = some ⟨f.change.accession, f.change.kind, .done, revision⟩ ∧
        (f.change.namesItem = false → revision = 0#16) ∧
        (f.change.namesItem = true → f.change.kind ≠ .purgeItem →
          ∀ r, findRecord u.store.records f.change.accession = some r → revision = r.revision) ∧
        (f.change.kind = .purgeItem →
          ∀ r, s.record? f.change.accession = some r → revision = r.revision)) ∧
      u.notices = ({ s.notices with commitDone := true }).testLatch s.settings.noticeEnables ∧
      (f.source = .direct → u.queue = s.queue) ∧
      (f.source = .queue → u.queue = s.queue.filter fun e => e.accession ≠ f.change.accession) ∧
      u.index.entries.map (·.accession) = u.store.records.map (·.accession) ∧
      u.index.carriers = carriersOf u.store.records ∧
      (∀ a, (u.record? a).isSome = true → u.index.useCount a = s.index.useCount a ∧
        u.index.isPending a =
          (s.index.isPending a && !decide (f.source = .queue ∧ a = f.change.accession))) ∧
      (f.change.kind ≠ .purgeItem → u.index.vacantSlots = s.index.vacantSlots) ∧
      (f.change.kind = .purgeItem → s.catalogueKept → (s.record? f.change.accession).isSome = true →
        u.index.vacantSlots = s.index.vacantSlots + 1) ∧
      (f.change.kind = .setItemFields ∨ f.change.kind = .certifyItem ∨ f.change.kind = .storeSettings ∨
          s.record? f.change.accession = none → u.index.freeSegments = s.index.freeSegments) ∧
      (∀ r, s.record? f.change.accession = some r →
        (f.change.kind = .writeItem ∨ f.change.kind = .retireItem ∨ f.change.kind = .purgeItem →
          u.index.freeSegments = s.index.freeSegments + r.segments.length) ∧
        ∀ a first k m run, f.change = .amendSegments a first k m run → first + k ≤ r.segments.length →
          u.index.freeSegments = s.index.freeSegments + k) ∧
      (∀ n, u.cursors.get n = (s.cursors.get n).clampedTo f.change.accession u.store.records) ∧
      u.pins = s.pins ∧ u.link = s.link ∧ u.starting = s.starting ∧ u.resetPending = false ∧
      u.resolution = s.resolution ∧ u.volumes = s.volumes ∧ u.settings = s.settings ∧
      u.milliseconds = s.milliseconds

/-- What a completed change does to its record: a create stands at revision 0, every change of a standing
record raises its revision by 1 (65,535 followed by 0), a purge removes it, and no other record is reached. A
WRITE ITEM gives the header's fields and its list; an AMEND SEGMENTS puts its run in the place of the k
segments from the first index; SET ITEM FIELDS gives the fields it names their values and leaves the others;
CERTIFY ITEM changes the state alone; RETIRE ITEM withdraws the record, names the successor and gives up the
whole list (R2, R3, R5, R6, R32, R144). -/
def Obligations.CommitRevises : Prop :=
  ∀ (c : Change) (records : List ItemRecord), c.namesItem = true →
    (∀ b, b ≠ c.accession → findRecord (c.applyRecords records) b = findRecord records b) ∧
    (c.kind = .purgeItem → findRecord (c.applyRecords records) c.accession = none) ∧
    (∀ h segments, c = .writeItem h segments → findRecord records c.accession = none →
      findRecord (c.applyRecords records) c.accession = some (recordOfHeader h segments 0#16)) ∧
    (∀ h segments revision, recordOfHeader h segments revision =
      ⟨h.accession.toNat, .active, (CarrierKind.ofByte h.carrierKind).getD .other, h.carrierId.toNat,
        h.side.toNat, h.track.toNat, h.duration.toNat, h.trim.toInt, h.restriction.toNat,
        h.grade.toNat, none, revision, segments.map segmentOfWire⟩) ∧
    ∀ r, findRecord records c.accession = some r → c.kind ≠ .purgeItem →
      ∃ r', findRecord (c.applyRecords records) c.accession = some r' ∧
        r'.revision = r.revision + 1#16 ∧
        (∀ h segments, c = .writeItem h segments →
          r' = recordOfHeader h segments (r.revision + 1#16)) ∧
        (∀ a first k m run, c = .amendSegments a first k m run →
          r' = { r with
            revision := r.revision + 1#16
            segments := r.segments.take first ++ run.map segmentOfWire
              ++ r.segments.drop (first + k) }) ∧
        (∀ a f, c = .setItemFields a f → r' = { r with
          revision := r.revision + 1#16
          trim := if f.namesTrim then f.trim.toInt else r.trim
          restriction := if f.namesRestriction then f.restriction.toNat else r.restriction
          grade := if f.namesGrade then f.grade.toNat else r.grade
          carrierKind := if f.namesKind then (CarrierKind.ofByte f.carrierKind).getD .other
            else r.carrierKind
          carrierId := if f.namesCarrierId then f.carrierId.toNat else r.carrierId
          side := if f.namesSide then f.side.toNat else r.side
          track := if f.namesTrack then f.track.toNat else r.track }) ∧
        (∀ a, c = .certifyItem a →
          r' = { r with revision := r.revision + 1#16, state := .certified }) ∧
        (∀ a successor, c = .retireItem a successor → r' = { r with
          revision := r.revision + 1#16
          state := .withdrawn
          successor := if successor = 0 then none else some successor
          segments := [] })

/-- A CLEAR HOLDINGS completes: the CERTIFIED records alone stand, every cursor whose path names a removed
record is FAULTED with MISSING_TARGET and CURSOR_FAULTED raised for it, every other cursor is left as it
was, the two indexes are those of the records that stand, the removed records' slots are vacant and their
segments' places free, and every use count is settled (R9, R10, R13, R14, R34, R36, R145). -/
def Obligations.ClearHoldingsCompletes : Prop :=
  ∀ (s : State) (f : InFlight), s.engine.inFlight = some f → f.change = .clearHoldings →
    s.resetPending = false → s.queue = [] →
    ∃ t, exec .commitComplete s = .next t ∧
      t.store.records = s.store.records.filter (fun r => r.state = .certified) ∧
      t.store.settings = s.store.settings ∧
      t.engine = ⟨none, s.engine.frozen, some ⟨0, .clearHoldings, .done, 0#16⟩⟩ ∧
      (∀ n, (s.cursors.get n).path.any
          (fun x => (findRecord t.store.records x.accession).isNone) = true →
        (t.cursors.get n).state = .faulted ∧ (t.cursors.get n).path = [] ∧
        (t.cursors.get n).fault = some .missingTarget ∧ (t.cursors.get n).lastCopy = none ∧
        (t.cursors.get n).top = (s.cursors.get n).top ∧
        (t.cursors.get n).position = (s.cursors.get n).position ∧
        t.notices.cursorFaulted.getLsbD n.val = true) ∧
      (∀ n, (s.cursors.get n).path.all
          (fun x => (findRecord t.store.records x.accession).isSome) = true →
        t.cursors.get n = s.cursors.get n) ∧
      t.notices.commitDone = true ∧
      t.index.entries.map (·.accession) = t.store.records.map (·.accession) ∧
      t.index.carriers = carriersOf t.store.records ∧
      t.index.vacantSlots = s.index.vacantSlots
        + (s.store.records.filter (fun r => r.state ≠ .certified)).length ∧
      t.index.freeSegments = s.index.freeSegments
        + ((s.store.records.filter (fun r => r.state ≠ .certified)).map (·.segments.length)).sum ∧
      ∀ e ∈ t.index.entries, e.useCount = framesNaming t.cursors e.accession

/-- A completion with STORE_FAULT, where no soft reset is pending: the version in force stays in every part,
the provisional slot and segments return, the entry of a QUEUE change leaves, the last-commit record is set
and COMMIT_FAILED raised (R146, R147, R151). The engine then takes the oldest READY entry in the same step
(R148). Where the change names an item that has no record, the revision is a free value (log entry 10). -/
def Obligations.StoreFaultKeepsVersion : Prop :=
  ∀ (s : State) (f : InFlight), s.engine.inFlight = some f → s.resetPending = false →
    ∃ u t, exec .commitStoreFault s = .next t ∧ exec .takeReadyEntry u = .next t ∧
      (s.readyCount = 0 → t = u) ∧ u.store = s.store ∧ u.cursors = s.cursors ∧
      (∀ a, u.index.useCount a = s.index.useCount a ∧
        (a ≠ f.change.accession → u.index.isPending a = s.index.isPending a)) ∧
      u.index.vacantSlots = s.index.vacantSlots + f.provisionalSlots ∧
      u.index.freeSegments = s.index.freeSegments + f.provisionalSegments ∧
      u.index.carriers = s.index.carriers ∧
      u.engine.inFlight = none ∧ u.engine.frozen = s.engine.frozen ∧
      (∃ revision,
        u.engine.lastCommit = some ⟨f.change.accession, f.change.kind, .storeFault, revision⟩ ∧
        (f.change.namesItem = false → revision = 0#16) ∧
        (f.change.namesItem = true →
          ∀ r, s.record? f.change.accession = some r → revision = r.revision)) ∧
      u.notices = ({ s.notices with commitFailed := true }).testLatch s.settings.noticeEnables ∧
      (f.source = .direct → u.queue = s.queue ∧ u.index.entries = s.index.entries) ∧
      (f.source = .queue → u.queue = s.queue.filter (fun e => e.accession ≠ f.change.accession) ∧
        u.index.isPending f.change.accession = false) ∧
      u.settings = s.settings ∧ u.volumes = s.volumes ∧ u.link = s.link ∧ u.pins = s.pins

/-- The engine, IDLE and THAWED with no soft reset pending, takes the oldest READY entry: when the re-checks
of protection, space and successor pass, the entry becomes COMMITTING and the commit starts with source
QUEUE; when one fails, the entry leaves, the last-commit record is set and COMMIT_FAILED raised, and a second
READY entry is taken at once (R148, R150, R162, R164). With nothing it may take, nothing changes. The model
makes the take inside the step that allows it (log entry 6), and QueueInvariant shuts a READY entry that
may be taken out between steps; the states this statement is about are those inside a step, from which
the statements of completions, THAW, the cursor commands and the tick go on. -/
def Obligations.TakeReadyEntry : Prop :=
  (∀ s : State, s.mayTake = false ∨ s.readyCount = 0 → exec .takeReadyEntry s = .next s) ∧
  ∀ (s : State) (e : Entry) (before after : List Entry), s.mayTake = true →
    s.queue = before ++ e :: after → (∀ x ∈ before, x.state ≠ .ready) → e.state = .ready →
    (s.queue.map (·.accession)).Nodup →
    (s.settings.protects e.accession = false → e.payload.segmentsNeeded ≤ s.index.freeSegments →
      (∀ a successor, e.payload = .retireItem a successor → successor ≠ 0 →
        ∃ r, s.record? successor = some r ∧ r.state ≠ .withdrawn) →
      exec .takeReadyEntry s = .next
        (((s.withQueue (before ++ { e with state := .committing } :: after)).withEngine
          { s.engine with inFlight := some ⟨e.payload, .queue,
              e.payload.slotsNeeded s.store.records, e.payload.segmentsNeeded⟩ }).withIndex
          { s.index with
            vacantSlots := s.index.vacantSlots - e.payload.slotsNeeded s.store.records
            freeSegments := s.index.freeSegments - e.payload.segmentsNeeded })) ∧
    ∀ r, e.accession = e.payload.accession → e.payload.namesItem = true →
      s.record? e.accession = some r →
      ∀ outcome, outcome = (if s.settings.protects e.accession = true then CommitOutcome.protection
        else if s.index.freeSegments < e.payload.segmentsNeeded then .noSpace
        else .successorInvalid) →
      (s.settings.protects e.accession = true ∨
        s.index.freeSegments < e.payload.segmentsNeeded ∨
        ∃ a successor, e.payload = .retireItem a successor ∧ successor ≠ 0 ∧
          ∀ x, s.record? successor = some x → x.state = .withdrawn) →
      ∀ u, u = ((((s.withQueue (before ++ after)).withIndex (s.index.setPending e.accession false)).withEngine
          { s.engine with
            lastCommit := some ⟨e.accession, e.payload.kind, outcome, r.revision⟩ }).withNotices
          (({ s.notices with commitFailed := true }).testLatch s.settings.noticeEnables)) →
        exec .takeReadyEntry s = exec .takeReadyEntry u ∧
          ((∀ x ∈ after, x.state ≠ .ready) → exec .takeReadyEntry s = .next u)

/-! ### The deferral queue's commands -/

/-- CANCEL PENDING removes a WAITING or READY entry and its item's pending field, and answers what the entry
was; a COMMITTING entry is refused BUSY, and no entry NOT_FOUND (R176). -/
def Obligations.CancelPendingAnswers : Prop :=
  ∀ (form : Byte) (accession : BitVec 24) (s : State), s.ready →
    (s.entry? accession.toNat = none → exec (.cancelPending form accession) s =
      .next (s.respond (.cancelPending form accession) ⟨.notFound, []⟩)) ∧
    ∀ e, s.entry? accession.toNat = some e →
      (e.state = .committing → exec (.cancelPending form accession) s =
        .next (s.respond (.cancelPending form accession) ⟨.busy, []⟩)) ∧
      (e.state ≠ .committing → exec (.cancelPending form accession) s =
        .next (((s.withQueue (s.queue.filter fun x => x.accession ≠ accession.toNat)).withIndex
          (s.index.setPending accession.toNat false)).respond (.cancelPending form accession)
          ⟨.ok, [e.payload.kind.byte, e.state.byte] ++ bytesOf 4 e.age ++ bytesOf 1 e.stage
            ++ bytesOf 1 (s.queue.filter fun x => x.accession ≠ accession.toNat).length⟩))

/-- FREEZE freezes an IDLE engine and is refused BUSY with cause ENGINE_BUSY while it is COMMITTING. THAW
thaws it, with no stage due takes the oldest READY entry, with one entry in the queue and a stage of it due
reaches that stage first, and with no entry in the queue does nothing more (R148, R152, R153, R167, R174). A
stage due at a FREEZE has been reached before it: TickCounts and QueueAgreesInvariant. -/
def Obligations.FreezeAndThaw : Prop :=
  ∀ (form : Byte) (s : State), s.ready →
    (s.engine.inFlight = none → exec (.freeze form) s =
      .next ((s.withEngine { s.engine with frozen := true }).respond (.freeze form) ⟨.ok, [0x00]⟩)) ∧
    (s.engine.inFlight.isSome = true → exec (.freeze form) s =
      .next (s.respond (.freeze form) ⟨.busy, [0x01]⟩)) ∧
    (s.engine.frozen = false → exec (.thaw form) s = .next (s.respond (.thaw form) ⟨.ok, []⟩)) ∧
    (s.engine.frozen = true → ∀ u, u = s.withEngine { s.engine with frozen := false } →
      (s.queue = [] → exec (.thaw form) s = .next (u.respond (.thaw form) ⟨.ok, []⟩)) ∧
      ((∀ e ∈ s.queue, e.state = .waiting → e.dueStages s.settings = []) →
        ∃ t, exec .takeReadyEntry u = .next t ∧
          exec (.thaw form) s = .next (t.respond (.thaw form) ⟨.ok, []⟩)) ∧
      ∀ (accession : BitVec 24) e, s.queue = [e] → e.accession = accession.toNat →
        ∃ t, exec (.stageReached accession) u = .next t ∧
          exec (.thaw form) s = .next (t.respond (.thaw form) ⟨.ok, []⟩)) ∧
    ∃ t, exec (.thaw form) s = .next t ∧ t.hasAnswered (.thaw form) ⟨.ok, []⟩ ∧
      t.engine.frozen = false ∧ t.store = s.store

/-! ### Reference resolution -/

/-- The records met from a REFERENCE's target on along successor links: the target's record, and after each
WITHDRAWN record the one that its successor names (R66). -/
def linksFrom (records : List ItemRecord) (target : Nat) (chain : List ItemRecord) : Prop :=
  chain ≠ [] ∧ chain.head? = findRecord records target ∧
    ∀ k x y, chain[k]? = some x → chain[k + 1]? = some y →
      x.state = .withdrawn ∧ ∃ a, x.successor = some a ∧ findRecord records a = some y

/-- The fault of a push of a target, on a path with room for it, by the checks of R65 and R66 in their
order. -/
def pushFaults (v : PathView) (target : Nat) (code : FaultCode) : Prop :=
  (code = .missingTarget ∧ findRecord v.records target = none) ∨
  ∃ chain x, linksFrom v.records target chain ∧ chain.length ≤ 5 ∧ chain.getLast? = some x ∧
    ((code = .missingTarget ∧ chain.length ≤ 4 ∧ x.state = .withdrawn ∧
        ∃ a, x.successor = some a ∧ findRecord v.records a = none) ∨
      (code = .withdrawnTarget ∧ x.state = .withdrawn ∧ x.successor = none) ∨
      (code = .successorChain ∧ chain.length = 5 ∧ x.state = .withdrawn ∧ x.successor.isSome = true) ∨
      (code = .restrictedTarget ∧ x.state ≠ .withdrawn ∧ v.clearance < x.restriction))

/-- `f` is the frame that the REFERENCE segment in use of `above` pushes at position `p`: the record reached
after at most four links, its revision, the displacement of R42, its segment in use, and via-successor exactly
when a link was followed (R42, R65 to R67). -/
def pushEnters (v : PathView) (p : Nat) (above f : PathFrame) : Prop :=
  ∃ g trim target offset chain r, above.segmentIn v.records = some g ∧
    g.body = .reference trim target offset ∧ linksFrom v.records target chain ∧ chain.length ≤ 5 ∧
    chain.getLast? = some r ∧ r.state ≠ .withdrawn ∧ r.restriction ≤ v.clearance ∧
    f.accession = r.accession ∧ f.revisionSeen = r.revision ∧
    f.displacement = above.displacement + g.start - offset ∧
    f.segment = segmentAt r.segments (p - f.displacement) ∧
    f.viaSuccessor = decide (1 < chain.length)

/-- Path work `w` that pushed frames below the `standing` ones at position `p`, down to a leaf frame, to a push
that faulted, or to one that met a DETACH (R62, R63, R65, R68, R69, R73, R101). -/
def resolvesFrom (v : PathView) (p : Nat) (standing : List PathFrame) (w : Walk) : Prop :=
  ∃ pushed, w.path = standing ++ pushed ∧ w.path.length ≤ 4 ∧
    (∀ k x y, w.path[k]? = some x → w.path[k + 1]? = some y → standing.length ≤ k + 1 →
      pushEnters v p x y) ∧
    (w.yielded = true ↔ ∃ f ∈ pushed, v.action f.accession = .yield) ∧
    (∀ k f, pushed[k]? = some f →
      (v.action f.accession = .detach ↔ w.stop = some .detached ∧ k + 1 = pushed.length)) ∧
    (w.stop = some .detached → pushed ≠ []) ∧
    (w.stop = none → ∀ x g, w.path.getLast? = some x → x.segmentIn v.records = some g →
      ∀ trim target offset, g.body ≠ .reference trim target offset) ∧
    ∀ code, w.stop = some (.fault code) →
      ∃ x g trim target offset, w.path.getLast? = some x ∧ x.segmentIn v.records = some g ∧
        g.body = .reference trim target offset ∧
        ((w.path.length = 4 ∧ code = .depth) ∨ (w.path.length < 4 ∧ pushFaults v target code))

/-- A build at a position checks the top record in the order of R64, pushes the top frame with displacement 0,
and resolves from it: each frame below is the one that the REFERENCE above it enters, over at most four
successor links and four frames, to a leaf, to the fault of the first check a push fails, or to a push that
met a DETACH. An advance keeps the frames above the one that turns, gives that one its segment in use afresh,
and resolves from it in the same way. The segment in use is the one that holds the local position, and at or
beyond the item's duration there is none; at the top item's end the path is one frame at end. What a push of an
item meets is the strongest of ACT1 to ACTk for its WAITING or READY entry of stage k, and nothing for a
COMMITTING entry or none (R42, R43, R61 to R70, R73, R101, R171). -/
def Obligations.PathsResolve : Prop :=
  (∀ (v : PathView) (top p : Nat) (w : Walk), w = buildPath v top p →
    (findRecord v.records top = none → w = ⟨[], false, some (.fault .missingTarget)⟩) ∧
    ∀ r, findRecord v.records top = some r →
      (r.state = .withdrawn → w = ⟨[], false, some (.fault .withdrawnTarget)⟩) ∧
      (r.state ≠ .withdrawn → v.clearance < r.restriction →
        w = ⟨[], false, some (.fault .restrictedTarget)⟩) ∧
      (r.state ≠ .withdrawn → r.restriction ≤ v.clearance → ∀ frame : PathFrame,
        frame = ⟨top, r.revision, segmentAt r.segments p, 0, false⟩ →
        w.path.head? = some frame ∧ resolvesFrom v p [] w ∧
        (r.tiled → p = r.duration → w.path = [frame] ∧ frame.segment = r.segments.length))) ∧
  (∀ (v : PathView) (above below : List PathFrame) (f kept : PathFrame) (p : Nat),
    above.length ≤ 3 →
    (∀ x ∈ above, ∀ g, x.segmentIn v.records = some g → g.holds (p - x.displacement) = true) →
    (∃ g, f.segmentIn v.records = some g ∧ g.holds (p - f.displacement) = false) →
    kept = { f with
      segment := segmentAt (((findRecord v.records f.accession).map (·.segments)).getD [])
        (p - f.displacement) } →
    resolvesFrom v p (above ++ [kept]) (advancePath v (above ++ f :: below) p)) ∧
  (∀ (segments : List Segment) (duration : Nat) (t : Int), tilesFrom 0 segments duration →
    (0 ≤ t → t < duration → ∃ g, segments[segmentAt segments t]? = some g ∧ (g.start : Int) ≤ t ∧
      t < (g.start : Int) + g.length) ∧
    ((duration : Int) ≤ t → segmentAt segments t = segments.length)) ∧
  ∀ (s : State) (clearance a : Nat), (s.view clearance).records = s.store.records ∧
    (s.view clearance).clearance = clearance ∧
    ((∀ e ∈ s.queue, e.accession ≠ a) → (s.view clearance).action a = .none) ∧
    ((s.queue.map (·.accession)).Nodup → ∀ e ∈ s.queue, e.accession = a →
      (e.state = .committing → (s.view clearance).action a = .none) ∧
      (e.state ≠ .committing → ∀ actions,
        actions = [s.settings.act1, s.settings.act2, s.settings.act3].take e.stage →
        (s.view clearance).action a =
          if Action.detach ∈ actions then .detach else if .yield ∈ actions then .yield
          else if .notify ∈ actions then .notify else .none))

/-! ### Cursors -/

/-- The notice that a build or an advance raises for its cursor where it stopped (R68, R100, R101). -/
def stopRaised (s : State) (n : Fin 16) (stop : Option Stop) : State :=
  match stop with
  | none => s
  | some (.fault _) => s.raise (.cursorFaulted n)
  | some .detached => s.raise (.cursorDetached n)

/-- `t` is what follows path work that left `worked`. The counts settle, and each deferral entry follows its
item's: to READY at 0, and back to WAITING above 0. Where no entry came back to WAITING with a stage due, the
engine takes what it may; where one did, that stage is reached first (R72, R161, R162, R167). -/
def pathWorkEnds (worked t : State) : Prop :=
  ∀ u, u = (worked.withIndex { worked.index with
      entries := worked.index.entries.map fun x =>
        { x with useCount := framesNaming worked.cursors x.accession } }).withQueue
      (worked.queue.map fun e =>
        if e.state = .waiting ∧ framesNaming worked.cursors e.accession = 0 then
          { e with state := .ready }
        else if e.state = .ready ∧ 0 < framesNaming worked.cursors e.accession then
          { e with state := .waiting }
        else e) →
    (worked.queue = [] → t = u) ∧
    ((worked.queue.map (·.accession)).Nodup →
      ((∀ e ∈ worked.queue, e.state = .ready → framesNaming worked.cursors e.accession = 0 ∨
          worked.engine.frozen = true ∨ e.dueStages worked.settings = []) →
        exec .takeReadyEntry u = .next t) ∧
      ∀ (accession : BitVec 24) (e : Entry), e ∈ worked.queue → e.accession = accession.toNat →
        e.state = .ready → 0 < framesNaming worked.cursors e.accession →
        (∀ x ∈ worked.queue, x ≠ e → x.state = .ready →
          framesNaming worked.cursors x.accession = 0) →
        exec (.stageReached accession) u = .next t)

/-- OPEN CURSOR on a CLOSED cursor and an item that passes its checks sets the context, builds the path at
the position, and answers the cursor's state, position, chunk and fault code. The state is ENDED at the
item's end, FAULTED or DETACHED where the build stopped, YIELDING where a push met a YIELD, and OPEN
otherwise; what a push meets is in PathsResolve. Nothing else changes but the counts, the notice of a fault or
a detach, with REPORT the condition, and what the counts bring the deferral queue (R58, R73, R83 to R85, R101,
R161, R162, R171). The order of the answer and the stages that follow is log entry 14. -/
def Obligations.OpenCursorSets : Prop :=
  ∀ (form cursor : Byte) (accession : BitVec 24) (position : BitVec 40) (chunk : BitVec 24)
    (clearance preference : Byte) (trim : BitVec 16) (s : State) (n : Fin 16) (r : ItemRecord)
    (choice : CopyPreference),
    s.ready → cursor.toNat = n.val → openInRange position chunk clearance preference trim = true →
    CopyPreference.ofByte preference = some choice →
    (s.cursors.get n).state = .closed → s.record? accession.toNat = some r →
    r.state ≠ .withdrawn → r.restriction ≤ clearance.toNat →
    (strictForm form = false ∨ position.toNat ≤ r.duration) →
    ∀ p w c, p = min position.toNat r.duration →
      w = buildPath (s.view clearance.toNat) accession.toNat p →
      c = (openedContext accession.toNat p
        (if chunk = 0#24 then s.settings.defaultChunk else chunk.toNat) clearance.toNat choice
        trim.toInt).placed w r.duration →
      (∃ t, exec (.openCursor form cursor accession position chunk clearance preference trim) s =
          .next (t.respond (.openCursor form cursor accession position chunk clearance preference trim)
            ⟨.ok, [c.state.byte] ++ bytesOf 5 p ++ bytesOf 3 c.chunk ++ [faultByte c.fault]⟩) ∧
        pathWorkEnds ((stopRaised (s.setCursor n c) n w.stop).noteCondition form
          (conditionOf position.toNat r.duration)
          (Sticky.ofPosition (decide (r.duration < position.toNat)))) t) ∧
      c.top = accession.toNat ∧
      c.chunk = (if chunk = 0#24 then s.settings.defaultChunk else chunk.toNat) ∧
      c.clearance = clearance.toNat ∧ c.preference = choice ∧
      [CopyPreference.primaryFirst, .secondaryFirst, .primaryOnly, .secondaryOnly][preference.toNat]? =
        some choice ∧
      c.trim = trim.toInt ∧ c.position = p ∧ c.sequence = 0#16 ∧ c.loop = none ∧ c.lastCopy = none ∧
      c.pendingWrap = false ∧ c.clampNote = false ∧
      (w.stop = none → c.path = w.path ∧ c.fault = none ∧
        c.state = if p = r.duration then .ended else if w.yielded then .yielding else .open) ∧
      (∀ code, w.stop = some (.fault code) →
        c.state = .faulted ∧ c.path = [] ∧ c.fault = some code) ∧
      (w.stop = some .detached → c.state = .detached ∧ c.path = [] ∧ c.fault = none) ∧
      c.yieldFlag = w.yielded

/-- SEEK moves a cursor to its target, clamped in the plain form, clears pending-wrap, the clamp note and the
last copy, and builds the path anew; in the strict form a target outside the item is refused RANGE and the
cursor is left as it was. The state is ENDED at the item's end, FAULTED or DETACHED where the build stopped,
YIELDING with the yield flag set, and OPEN otherwise. Nothing else changes but the counts, the notice of a fault
or a detach, with REPORT the condition, and what the counts bring the deferral queue (R57, R58, R86, R101, R161,
R162, R171). With no record at the top accession the position stays, the
build faults MISSING_TARGET and the command is answered OK with the condition NONE (R87); that such a seek
clears pending-wrap, the clamp note and the last copy is log entry 20. The answer whatever the queue holds is
the model's log entry 14, a relative target from the position of an ENDED cursor its log entry 28, and the
fault code none of a seek that a DETACH stops its log entry 19. -/
def Obligations.SeekMoves : Prop :=
  (∀ (form cursor kind : Byte) (value : BitVec 40) (s : State) (n : Fin 16) (target : Int) (c : Cursor),
    s.ready → cursor.toNat = n.val → (s.cursors.get n).state ≠ .closed →
    (s.cursors.get n).state ≠ .detached → s.record? (s.cursors.get n).top = none →
    seekTarget kind value (s.cursors.get n).position = some target →
    c = { s.cursors.get n with
      state := .faulted, path := [], fault := some .missingTarget, pendingWrap := false,
      clampNote := false, lastCopy := none } →
    ∃ t, exec (.seek form cursor kind value) s = .next (t.respond (.seek form cursor kind value)
        ⟨.ok, [0x06] ++ bytesOf 5 c.position ++ [0x02]⟩) ∧
      pathWorkEnds (((s.setCursor n c).raise (.cursorFaulted n)).noteCondition form .none
        Sticky.none) t) ∧
  ∀ (form cursor kind : Byte) (value : BitVec 40) (s : State) (n : Fin 16) (r : ItemRecord)
    (target : Int),
    s.ready → cursor.toNat = n.val → (s.cursors.get n).state ≠ .closed →
    (s.cursors.get n).state ≠ .detached → s.record? (s.cursors.get n).top = some r →
    seekTarget kind value (s.cursors.get n).position = some target →
    (strictForm form = true → target < 0 ∨ (r.duration : Int) < target →
      exec (.seek form cursor kind value) s = .next
        ((s.noteCondition form (if target < 0 then .below else .above) Sticky.none).respond
          (.seek form cursor kind value) ⟨.range, []⟩)) ∧
    (strictForm form = false ∨ (0 ≤ target ∧ target ≤ r.duration) →
      ∀ w c, w = buildPath (s.view (s.cursors.get n).clearance) (s.cursors.get n).top
          (clampTo target r.duration) →
        c = ({ s.cursors.get n with
          position := clampTo target r.duration, pendingWrap := false, clampNote := false,
          lastCopy := none } : Cursor).placed w r.duration →
        (∃ t, exec (.seek form cursor kind value) s =
            .next (t.respond (.seek form cursor kind value)
              ⟨.ok, [c.state.byte] ++ bytesOf 5 (clampTo target r.duration)
                ++ [faultByte c.fault]⟩) ∧
          pathWorkEnds ((stopRaised (s.setCursor n c) n w.stop).noteCondition form
            (conditionOf target r.duration) (Sticky.ofPosition
              (decide (target < 0 ∨ (r.duration : Int) < target)))) t) ∧
        c.yieldFlag = ((s.cursors.get n).yieldFlag || w.yielded) ∧
        (w.stop = none → c.path = w.path ∧ c.fault = none ∧
          c.state = if clampTo target r.duration = r.duration then .ended
            else if c.yieldFlag then .yielding else .open) ∧
        (∀ code, w.stop = some (.fault code) →
          c.state = .faulted ∧ c.path = [] ∧ c.fault = some code) ∧
        (w.stop = some .detached → c.state = .detached ∧ c.path = [] ∧ c.fault = none))

/-- An accepted SET LOOP sets the region, clamped in the plain form, of at least 10,000 microseconds within
the item; CLEAR LOOP removes it; neither moves the cursor (R59, R88). -/
def Obligations.LoopsSet : Prop :=
  ∀ (form cursor : Byte) (start length : BitVec 40) (s : State) (n : Fin 16), s.ready →
    cursor.toNat = n.val → (s.cursors.get n).state ≠ .closed → (s.cursors.get n).state ≠ .detached →
    exec (.clearLoop form cursor) s = .next
      ((s.setCursor n { s.cursors.get n with loop := none }).respond (.clearLoop form cursor)
        ⟨.ok, []⟩) ∧
    ∀ r, s.record? (s.cursors.get n).top = some r → start.toNat ≤ 68719476735 →
      length.toNat ≤ 68719476735 → 10000 ≤ length.toNat → 10000 ≤ r.duration →
      (strictForm form = true → r.duration < start.toNat + length.toNat →
        exec (.setLoop form cursor start length) s = .next
          ((s.noteCondition form .above Sticky.none).respond (.setLoop form cursor start length)
            ⟨.range, []⟩)) ∧
      (strictForm form = false ∨ start.toNat + length.toNat ≤ r.duration →
        ∃ low high, low = min start.toNat (r.duration - 10000) ∧
          high = min (low + length.toNat) r.duration ∧ low + 10000 ≤ high ∧ high ≤ r.duration ∧
          exec (.setLoop form cursor start length) s = .next
            (((s.setCursor n { s.cursors.get n with loop := some ⟨low, high⟩ }).noteCondition form
              (if low < start.toNat ∨ r.duration < low + length.toNat then .above else .within)
              (Sticky.ofPosition (decide
                (low < start.toNat ∨ r.duration < low + length.toNat)))).respond
              (.setLoop form cursor start length) ⟨.ok, bytesOf 5 low ++ bytesOf 5 high⟩))

/-- The refusals of the cursor commands in their order: MALFORMED for a cursor above 15 or an argument outside
its range; CURSOR_STATE by the table of R82; OPEN CURSOR's NOT_FOUND, WITHDRAWN with the successor, RESTRICTED
and strict RANGE; SET LOOP's NOT_FOUND with no top record and RANGE for a length or a duration below 10,000,
in either form and with the condition NONE. No refusal changes a cursor (R55, R57 to R59, R82 to R84, R88). A
strict SET LOOP that both reasons refuse is the model's log entry 29. -/
def Obligations.CursorCommandsRefused : Prop :=
  ∀ (form cursor : Byte) (s : State), s.ready →
    ∀ refused : (Instr → ResultCode → List Byte → Prop), (refused = fun i code data =>
      exec i s = .next (s.respond i ⟨code, data⟩)) →
    (15 < cursor.toNat → refused (.clearLoop form cursor) .malformed [0x14, 0x41] ∧
      refused (.fetch form cursor) .malformed [0x14, 0x41] ∧
      refused (.closeCursor form cursor) .malformed [0x14, 0x41]) ∧
    (∀ (accession : BitVec 24) (position : BitVec 40) (chunk : BitVec 24) (clearance preference : Byte)
      (trim : BitVec 16) (i : Instr),
      i = .openCursor form cursor accession position chunk clearance preference trim →
      (15 < cursor.toNat ∨ 68719476735 < position.toNat ∨
          (chunk ≠ 0#24 ∧ (chunk.toNat < 10000 ∨ 2000000 < chunk.toNat)) ∨ 7 < clearance.toNat ∨
          3 < preference.toNat ∨ trim.toInt < -600 ∨ 120 < trim.toInt →
        refused i .malformed [0x14, 0x41]) ∧
      (∀ n : Fin 16, cursor.toNat = n.val →
        openInRange position chunk clearance preference trim = true →
        ((s.cursors.get n).state ≠ .closed → refused i .cursorState []) ∧
        ((s.cursors.get n).state = .closed →
          (s.record? accession.toNat = none → refused i .notFound []) ∧
          ∀ r, s.record? accession.toNat = some r →
            (r.state = .withdrawn → refused i .withdrawn (bytesOf 3 (r.successor.getD 0))) ∧
            (r.state ≠ .withdrawn → clearance.toNat < r.restriction → refused i .restricted []) ∧
            (r.state ≠ .withdrawn → r.restriction ≤ clearance.toNat → strictForm form = true →
              r.duration < position.toNat → exec i s =
                .next ((s.noteCondition form .above Sticky.none).respond i ⟨.range, []⟩))))) ∧
    (∀ (kind : Byte) (value : BitVec 40),
      (15 < cursor.toNat ∨ 2 < kind.toNat ∨ (kind = 0#8 ∧ 68719476735 < value.toNat) →
        refused (.seek form cursor kind value) .malformed [0x14, 0x41]) ∧
      ∀ n : Fin 16, cursor.toNat = n.val → kind.toNat ≤ 2 →
        (kind = 0#8 → value.toNat ≤ 68719476735) →
        (s.cursors.get n).state = .closed ∨ (s.cursors.get n).state = .detached →
        refused (.seek form cursor kind value) .cursorState []) ∧
    ∀ start length : BitVec 40,
      (15 < cursor.toNat ∨ 68719476735 < start.toNat ∨ 68719476735 < length.toNat →
        refused (.setLoop form cursor start length) .malformed [0x14, 0x41]) ∧
      ∀ n : Fin 16, cursor.toNat = n.val → start.toNat ≤ 68719476735 → length.toNat ≤ 68719476735 →
        ((s.cursors.get n).state = .closed ∨ (s.cursors.get n).state = .detached →
          refused (.setLoop form cursor start length) .cursorState [] ∧
          refused (.clearLoop form cursor) .cursorState []) ∧
        ((s.cursors.get n).state ≠ .closed → (s.cursors.get n).state ≠ .detached →
          (s.record? (s.cursors.get n).top = none →
            refused (.setLoop form cursor start length) .notFound []) ∧
          ∀ r, s.record? (s.cursors.get n).top = some r →
            length.toNat < 10000 ∨ r.duration < 10000 →
            exec (.setLoop form cursor start length) s = .next
              ((s.noteCondition form .none Sticky.none).respond (.setLoop form cursor start length)
                ⟨.range, []⟩))

/-- FETCH is refused CURSOR_STATE in CLOSED; in every other state it answers one descriptor with the
sequence raised by 1. DETACHED and FAULTED cursors change in nothing else, and on a current path UNAVAILABLE
leaves all but the state. The fetched cursor, its notices, with REPORT the condition, the counts and what they
bring the deferral queue are all that changes (R72, R89, R93, R101, R106, R161, R162, R171). What a push meets
is in PathsResolve, and what it does to the cursor in FetchMoves and FetchRebuilds. That the answer is the
descriptor as built, whatever the queue holds, is the model's log entry 14. -/
def Obligations.FetchAnswers : Prop :=
  ∀ (form cursor : Byte) (s : State) (n : Fin 16), s.ready → cursor.toNat = n.val →
    ((s.cursors.get n).state = .closed → exec (.fetch form cursor) s =
      .next (s.respond (.fetch form cursor) ⟨.cursorState, []⟩)) ∧
    ((s.cursors.get n).state ≠ .closed →
      ∀ c r, c = { s.cursors.get n with sequence := (s.cursors.get n).sequence + 1#16 } →
        r = c.fetched (s.view c.clearance) s.volumes n →
        (∃ t, exec (.fetch form cursor) s =
            .next (t.respond (.fetch form cursor) ⟨.ok, r.descriptor.bytes⟩) ∧
          pathWorkEnds ((if r.stalled then
              (stopRaised (s.setCursor n r.cursor) n r.stop).raise (.cursorStalled n)
            else stopRaised (s.setCursor n r.cursor) n r.stop).noteCondition form
              r.descriptor.kind.condition (r.descriptor.sticky r.raw false)) t) ∧
        r.descriptor.lead = n.val ∧ r.descriptor.sequence = c.sequence ∧
        r.cursor.sequence = c.sequence ∧
        (c.state = .detached → r.cursor = c ∧ r.descriptor.kind = .detached) ∧
        (c.state = .faulted → r.cursor = c ∧ r.descriptor.kind = .faulted ∧
          r.descriptor.fault = c.fault) ∧
        (r.stalled = true ↔ r.descriptor.kind = .unavailable ∧ c.state ≠ .stalled) ∧
        (r.descriptor.kind = .unavailable → r.cursor.state = .stalled ∧
          r.cursor.position = c.position ∧ r.cursor.pendingWrap = c.pendingWrap ∧
          (pathCurrent s.store.records c.path = true → r.cursor = { c with state := .stalled })))

/-- What a FETCH on a current path delivers. Over stored sound with a copy to read: AUDIO, with the span to
its end, the indexes of both ends clamped to the stored count, the byte offset on the chosen copy, the
saturated gain, and COPY_CHANGED when the copy is not the last one used; with no copy: UNAVAILABLE, with the
same span and no copy named. Over a LACUNA, an overhang, or a span of no stored sample: GAP. At the item's end:
END, the cursor unmoved and ENDED, with WRAPPED and POSITION_CLAMPED reported and their flags cleared. A copy
that is present on an ONLINE volume is chosen in the order of the preference, and a preference for one copy
takes no other; the gain is summed from the cursor trim and, of every frame on the path, the item trim and the
segment trim of its segment in use (R45 to R49, R51 to R53, R91 to R93, R95, R97, R98, R127, R129, R130). -/
def Obligations.FetchDescriptors : Prop :=
  (∀ (t : Transfer) (volumes : Table Volume 64) (first second : Option (Copy × Placement)),
    first = (if (volumes.get t.primary.volume).health = .online then some (.primary, t.primary)
      else none) →
    second = (match t.secondary with
      | none => none
      | some q => if (volumes.get q.volume).health = .online then some (.secondary, q) else none) →
    t.chooseCopy volumes .primaryFirst = first.or second ∧
      t.chooseCopy volumes .secondaryFirst = second.or first ∧
      t.chooseCopy volumes .primaryOnly = first ∧ t.chooseCopy volumes .secondaryOnly = second) ∧
  (∀ (records : List ItemRecord) (trim : Int) (path : List PathFrame),
    rawGain records trim path = trim + (path.map fun f =>
      ((findRecord records f.accession).map (·.trim)).getD 0 +
        match (findRecord records f.accession).bind (fun r => r.segments[f.segment]?) with
        | some ⟨_, _, .transfer segmentTrim _⟩ => segmentTrim
        | some ⟨_, _, .reference segmentTrim _ _⟩ => segmentTrim
        | some ⟨_, _, .lacuna⟩ => 0
        | none => 0).sum) ∧
  ∀ (c : Cursor) (v : PathView) (volumes : Table Volume 64) (n : Fin 16) (r : ItemRecord),
    c.state ≠ .detached → c.state ≠ .faulted → pathCurrent v.records c.path = true →
    findRecord v.records c.top = some r →
    (∀ (f : PathFrame) (g : Segment) (t : Transfer) (stop first last : Nat) (raw : Int),
      c.position < r.duration → leafOf v.records c.path = .transfer f g t →
      stop = c.spanEnd v.records r.duration → raw = rawGain v.records c.trim c.path →
      first = min (((c.position : Int) - f.displacement - g.start).toNat * t.rate * t.nominal
        / (t.speed * 1000000)) t.count →
      last = min (((stop : Int) - f.displacement - g.start).toNat * t.rate * t.nominal
        / (t.speed * 1000000)) t.count →
      ∀ gap unavailable : Descriptor, gap = {
        lead := n.val, sequence := c.sequence, kind := .gap, wrapped := c.pendingWrap,
        indexClamped := decide (t.count < ((stop : Int) - f.displacement - g.start).toNat * t.rate
          * t.nominal / (t.speed * 1000000)),
        yield := c.yieldFlag,
        segmentEnd := decide ((stop : Int) = (g.start + g.length : Nat) + f.displacement),
        topStart := c.position, length := stop - c.position, leafAccession := f.accession,
        leafSegment := f.segment } →
      unavailable = { gap with
        kind := .unavailable, wrapped := false, gainClamped := decide (120 < raw ∨ raw < -600),
        indexStart := first, count := last - first, frameBytes := t.channels * t.width,
        rate := t.rate, gain := max (-600) (min 120 raw) } →
      (last ≤ first → (c.fetched v volumes n).descriptor = gap) ∧
      (first < last → t.chooseCopy volumes c.preference = none →
        (c.fetched v volumes n).descriptor = unavailable) ∧
      ∀ copy place, first < last → t.chooseCopy volumes c.preference = some (copy, place) →
        (c.fetched v volumes n).descriptor = { unavailable with
          kind := .audio, wrapped := c.pendingWrap, copyChanged := decide (c.lastCopy ≠ some copy),
          copy := some copy, volume := place.volume.val, file := place.file,
          byteOffset := place.base + first * (t.channels * t.width) }) ∧
    (∀ (f : PathFrame) (stop : Nat), c.position < r.duration → stop = c.spanEnd v.records r.duration →
      ∀ gap : Descriptor, gap = {
        lead := n.val, sequence := c.sequence, kind := .gap, wrapped := c.pendingWrap,
        yield := c.yieldFlag, topStart := c.position, length := stop - c.position,
        leafAccession := f.accession, leafSegment := f.segment } →
      (∀ g, leafOf v.records c.path = .lacuna f g → (c.fetched v volumes n).descriptor = { gap with
        segmentEnd := decide ((stop : Int) = (g.start + g.length : Nat) + f.displacement) }) ∧
      (leafOf v.records c.path = .overhang f → (c.fetched v volumes n).descriptor = gap)) ∧
    (r.duration ≤ c.position → (c.fetched v volumes n) = {
      cursor := { c with state := .ended, pendingWrap := false, clampNote := false }
      descriptor := {
        lead := n.val, sequence := c.sequence, kind := .end_, wrapped := c.pendingWrap,
        positionClamped := c.clampNote, yield := c.yieldFlag, topStart := r.duration,
        leafAccession := c.top, leafSegment := r.segments.length }
      stop := none
      stalled := false
      raw := 0 })

/-- The move after an AUDIO or GAP descriptor for the span from p to e. Where a loop applies and e is its end:
the position at the loop start, the path built anew there, the last copy none and pending-wrap set. Otherwise:
the position at e, the path advanced, pending-wrap consumed and the last copy the one delivered; the state
ENDED where e is the duration. A push that met a YIELD leaves the cursor YIELDING; one that faulted leaves it
FAULTED, and a DETACH DETACHED, each at the position moved to, with the descriptor unaltered. An advance keeps
the frames above the first one that turns, gives that one its segment in use afresh, and pushes from it down
to a leaf that is no REFERENCE; where no frame turns the path stays (R47, R61, R63, R69, R70, R94 to R96). -/
def Obligations.FetchMoves : Prop :=
  (∀ (c : Cursor) (v : PathView) (volumes : Table Volume 64) (n : Fin 16) (r : ItemRecord)
    (d : Descriptor) (stop : Nat),
    c.state ≠ .detached → c.state ≠ .faulted → pathCurrent v.records c.path = true →
    findRecord v.records c.top = some r → c.position < r.duration →
    stop = c.spanEnd v.records r.duration → d = (c.fetched v volumes n).descriptor →
    d.kind = .audio ∨ d.kind = .gap →
    ∀ (wraps : Option LoopRegion) (w : Walk) (m : Cursor),
      wraps = (c.loop.filter fun l =>
        decide (l.stop ≤ r.duration ∧ c.position < l.stop ∧ l.stop = stop)) →
      w = (match wraps with
        | some l => buildPath v c.top l.start
        | none => advancePath v c.path stop) →
      m = { c with
        position := (match wraps with | some l => l.start | none => stop)
        pendingWrap := wraps.isSome
        lastCopy := (if wraps.isSome then none else if d.kind = .audio then d.copy else c.lastCopy)
        yieldFlag := c.yieldFlag || w.yielded } →
      (c.fetched v volumes n).stop = w.stop ∧
      (w.stop = none → (c.fetched v volumes n).cursor = { m with
        path := w.path
        state := if wraps = none ∧ stop = r.duration then .ended
          else if m.yieldFlag then .yielding else .open }) ∧
      (∀ code, w.stop = some (.fault code) → (c.fetched v volumes n).cursor = { m with
        state := .faulted, path := [], lastCopy := none, fault := some code }) ∧
      (w.stop = some .detached → (c.fetched v volumes n).cursor = { m with
        state := .detached, path := [], lastCopy := none, pendingWrap := false, fault := none })) ∧
  (∀ (v : PathView) (above below : List PathFrame) (f : PathFrame) (p : Nat),
    (∀ x ∈ above, ∀ g, x.segmentIn v.records = some g → g.holds (p - x.displacement) = true) →
    (∃ g, f.segmentIn v.records = some g ∧ g.holds (p - f.displacement) = false) →
    ∀ kept : PathFrame, kept = { f with
      segment := segmentAt (((findRecord v.records f.accession).map (·.segments)).getD [])
        (p - f.displacement) } →
    ∃ pushed, (advancePath v (above ++ f :: below) p).path = above ++ kept :: pushed ∧
      ((advancePath v (above ++ f :: below) p).stop = none →
        ∀ x g, (above ++ kept :: pushed).getLast? = some x → x.segmentIn v.records = some g →
          ∀ trim target offset, g.body ≠ .reference trim target offset) ∧
      ((∀ g, kept.segmentIn v.records = some g →
          ∀ trim target offset, g.body ≠ .reference trim target offset) →
        pushed = [] ∧ (advancePath v (above ++ f :: below) p).stop = none)) ∧
  ∀ (v : PathView) (path : List PathFrame) (p : Nat),
    (∀ x ∈ path, ∀ g, x.segmentIn v.records = some g → g.holds (p - x.displacement) = true) →
    advancePath v path p = ⟨path, false, none⟩

/-- The revision check of a FETCH: the path stands when every frame's revision seen is its record's, and then
the descriptor does not carry REBUILT. Otherwise the path is built anew from the top at the position and the
last copy is none; the descriptor carries REBUILT whatever its kind: FAULTED with the code, or DETACHED, where
the build stopped, and otherwise what the FETCH delivers on the new path, which is current (R75, R90). -/
def Obligations.FetchRebuilds : Prop :=
  (∀ (records : List ItemRecord) (path : List PathFrame), pathCurrent records path = true ↔
    ∀ f ∈ path, ∃ r, findRecord records f.accession = some r ∧ r.revision = f.revisionSeen) ∧
  ∀ (c : Cursor) (v : PathView) (volumes : Table Volume 64) (n : Fin 16), c.state ≠ .detached →
    c.state ≠ .faulted →
    (pathCurrent v.records c.path = true → (c.fetched v volumes n).descriptor.rebuilt = false) ∧
    (pathCurrent v.records c.path = false → ∀ (w : Walk) (b : Cursor),
      w = buildPath v c.top c.position →
      b = { c with lastCopy := none, yieldFlag := c.yieldFlag || w.yielded } →
      (w.stop = none → pathCurrent v.records w.path = true ∧
        c.fetched v volumes n = { ({ b with path := w.path } : Cursor).fetched v volumes n with
          descriptor := { (({ b with path := w.path } : Cursor).fetched v volumes n).descriptor with
            rebuilt := true } }) ∧
      (∀ code, w.stop = some (.fault code) → c.fetched v volumes n = {
        cursor := { b with state := .faulted, path := [], fault := some code }
        descriptor := {
          lead := n.val, sequence := c.sequence, kind := .faulted, yield := b.yieldFlag,
          rebuilt := true, fault := some code, topStart := c.position }
        stop := w.stop
        stalled := false
        raw := 0 }) ∧
      (w.stop = some .detached → c.fetched v volumes n = {
        cursor := { b with state := .detached, path := [], pendingWrap := false, fault := none }
        descriptor := {
          lead := n.val, sequence := c.sequence, kind := .detached, yield := b.yieldFlag,
          rebuilt := true, topStart := c.position }
        stop := w.stop
        stalled := false
        raw := 0 }))

/-- The span end of a FETCH is the least of its candidates: the position plus the chunk, the top duration,
the loop end when the loop applies, and the translated end of every segment in use along the path (R46 to
R48). Every AUDIO descriptor names a run of at least one frame within its leaf segment's stored sample count,
on a volume that is ONLINE, at a gain of -600 to +120 (R45, R53, R97, R127). -/
def Obligations.FetchStaysWithin : Prop :=
  (∀ (c : Cursor) (records : List ItemRecord) (duration : Nat),
    ∀ candidates : List Nat, candidates = [c.position + c.chunk, duration]
        ++ ((c.loop.filter fun l => decide (l.stop ≤ duration ∧ c.position < l.stop)).toList.map
          (·.stop))
        ++ c.path.filterMap (fun f => (f.segmentIn records).map
          fun g => ((g.start + g.length : Nat) + f.displacement).toNat) →
      c.spanEnd records duration ∈ candidates ∧ ∀ x ∈ candidates, c.spanEnd records duration ≤ x) ∧
  ∀ (c : Cursor) (v : PathView) (volumes : Table Volume 64) (n : Fin 16) (d : Descriptor),
    d = (c.fetched v volumes n).descriptor → d.kind = .audio →
    ∃ r g trim t volume, findRecord v.records d.leafAccession = some r ∧
      r.segments[d.leafSegment]? = some g ∧ g.body = .transfer trim t ∧
      d.indexStart < d.indexStart + d.count ∧ d.indexStart + d.count ≤ t.count ∧
      d.volume = volume.val ∧ (volumes.get volume).health = .online ∧
      -600 ≤ d.gain ∧ d.gain ≤ 120

/-- CLOSE CURSOR sets every field of the context to its CLOSED value and leaves the cursor's notices and
its bits in the three cursor masks pending; on a CLOSED cursor it is refused CURSOR_STATE. The counts of the
items it named settle together, every WAITING entry whose item is in use no more becomes READY, and an IDLE,
THAWED engine takes the oldest READY entry in the same step (R72, R80, R104, R148, R161, R162). -/
def Obligations.CloseCursorClears : Prop :=
  ∀ (form cursor : Byte) (s : State) (n : Fin 16), s.ready → cursor.toNat = n.val →
    ((s.cursors.get n).state = .closed → exec (.closeCursor form cursor) s =
      .next (s.respond (.closeCursor form cursor) ⟨.cursorState, []⟩)) ∧
    ((s.cursors.get n).state ≠ .closed →
      (∃ t, exec (.closeCursor form cursor) s = .next t ∧
        t.hasAnswered (.closeCursor form cursor) ⟨.ok, []⟩ ∧
        t.cursors.get n = ⟨.closed, 0, 0, 0, 0, .primaryFirst, 0, none, [], none, 0, false, none,
          false, false⟩ ∧
        ∀ m, (s.notices.cursorStalled.getLsbD m = true → t.notices.cursorStalled.getLsbD m = true) ∧
          (s.notices.cursorDetached.getLsbD m = true → t.notices.cursorDetached.getLsbD m = true) ∧
          (s.notices.cursorFaulted.getLsbD m = true → t.notices.cursorFaulted.getLsbD m = true)) ∧
      ((∀ e ∈ s.queue, e.state = .ready → framesNaming s.cursors e.accession = 0) →
        ∀ cursors u, cursors = s.cursors.set n Cursor.closed →
          u = ((s.withCursors cursors).withIndex { s.index with
              entries := s.index.entries.map fun x =>
                { x with useCount := framesNaming cursors x.accession } }).withQueue
            (s.queue.map fun e =>
              if e.state = .waiting ∧ framesNaming cursors e.accession = 0 then
                { e with state := .ready }
              else e) →
          ∃ t, exec .takeReadyEntry u = .next t ∧
            exec (.closeCursor form cursor) s = .next (t.respond (.closeCursor form cursor) ⟨.ok, []⟩) ∧
            (s.queue = [] → t = u)))

/-- After OPEN CURSOR, SEEK, FETCH or CLOSE CURSOR answered OK, every use count is the number of path frames
that name its record (R4, R71, R72). -/
def Obligations.UseCountsSettle : Prop :=
  ∀ (i : Instr) (s t : State) (data : List Byte),
    ((∃ form cursor accession position chunk clearance preference trim,
        i = .openCursor form cursor accession position chunk clearance preference trim) ∨
      (∃ form cursor kind value, i = .seek form cursor kind value) ∨
      (∃ form cursor, i = .fetch form cursor) ∨ ∃ form cursor, i = .closeCursor form cursor) →
    s.ready → exec i s = .next t → t.hasAnswered i ⟨.ok, data⟩ →
    ∀ e ∈ t.index.entries, e.useCount = framesNaming t.cursors e.accession

/-! ### Volumes -/

/-- REPORT FAULT: in ONLINE the count rises by 1 and tFWIN restarts, and at the threshold the volume enters
FAILED with tPWAIT and VOLUME_FAILED; in FAILED nothing changes; in PROBING and SETTLING the volume enters
FAILED with tPWAIT and VOLUME_FAILED, its count kept. No other volume is reached (R114, R115, R117, R119,
R121). -/
def Obligations.ReportFaultCounts : Prop :=
  ∀ (form volume : Byte) (v : Fin 64) (s : State) (e : Volume), s.ready → volume.toNat = v.val →
    e = s.volumes.get v →
    (e.health = .unregistered → exec (.reportFault form volume) s =
      .next (s.respond (.reportFault form volume) ⟨.volumeUnknown, []⟩)) ∧
    (e.health = .online → e.faultCount + 1 < s.settings.faultThreshold →
      exec (.reportFault form volume) s = .next ((s.setVolume v
        ⟨.online, e.faultCount + 1, .running .tFwin s.settings.tFwin⟩).respond
          (.reportFault form volume)
        ⟨.ok, Volume.bytes ⟨.online, e.faultCount + 1, .running .tFwin s.settings.tFwin⟩⟩)) ∧
    (e.health = .online → s.settings.faultThreshold ≤ e.faultCount + 1 →
      exec (.reportFault form volume) s = .next (((s.setVolume v
        ⟨.failed, e.faultCount + 1, .running .tPwait s.settings.tPwait⟩).raise
          (.volumeFailed v)).respond (.reportFault form volume)
        ⟨.ok, Volume.bytes ⟨.failed, e.faultCount + 1, .running .tPwait s.settings.tPwait⟩⟩)) ∧
    (e.health = .failed → exec (.reportFault form volume) s =
      .next (s.respond (.reportFault form volume) ⟨.ok, e.bytes⟩)) ∧
    (e.health = .probing ∨ e.health = .settling →
      exec (.reportFault form volume) s = .next (((s.setVolume v
        ⟨.failed, e.faultCount, .running .tPwait s.settings.tPwait⟩).raise
          (.volumeFailed v)).respond (.reportFault form volume)
        ⟨.ok, Volume.bytes ⟨.failed, e.faultCount, .running .tPwait s.settings.tPwait⟩⟩))

/-- R116 whole: the expiry of tFWIN on an ONLINE volume sets its count to 0 and its timer idle; a report
taken after it counts 1 and starts tFWIN afresh; a report taken before it restarts tFWIN, raises the count
from its figure, and the expiry that was due does not happen. -/
def Obligations.FaultWindowForgives : Prop :=
  ∀ (form volume : Byte) (v : Fin 64) (s : State) (count : Nat), volume.toNat = v.val →
    s.volumes.get v = ⟨.online, count, .running .tFwin 0⟩ → 0 < s.settings.tFwin →
    exec (.tfwinExpiry v) s = .next (s.setVolume v ⟨.online, 0, .idle⟩) ∧
    (s.ready → 1 < s.settings.faultThreshold → ∀ t, exec (.tfwinExpiry v) s = .next t →
      ∃ u, exec (.reportFault form volume) t = .next u ∧
        u.volumes.get v = ⟨.online, 1, .running .tFwin s.settings.tFwin⟩) ∧
    (s.ready → count + 1 < s.settings.faultThreshold →
      ∃ u, exec (.reportFault form volume) s = .next u ∧
        u.volumes.get v = ⟨.online, count + 1, .running .tFwin s.settings.tFwin⟩ ∧
        exec (.tfwinExpiry v) u = .next u)

/-- PROBE VOLUME takes a FAILED volume to PROBING with tPTO and no notice, and is refused VOLUME_STATE in
ONLINE, PROBING and SETTLING; the expiry of tPWAIT with auto probe yes takes it to PROBING with tPTO and
VOLUME_PROBE_REQUEST, and with auto probe no leaves it FAILED with its timer idle. In whichever order the
two come, the second changes nothing (R117, R118). -/
def Obligations.ProbesBegin : Prop :=
  ∀ (form volume : Byte) (v : Fin 64) (s : State) (e : Volume), volume.toNat = v.val →
    e = s.volumes.get v →
    (s.ready → e.health = .failed → exec (.probeVolume form volume) s =
      .next ((s.setVolume v ⟨.probing, e.faultCount, .running .tPto s.settings.tPto⟩).respond
        (.probeVolume form volume)
        ⟨.ok, Volume.bytes ⟨.probing, e.faultCount, .running .tPto s.settings.tPto⟩⟩)) ∧
    (s.ready → e.health = .online ∨ e.health = .probing ∨ e.health = .settling →
      exec (.probeVolume form volume) s =
        .next (s.respond (.probeVolume form volume) ⟨.volumeState, []⟩)) ∧
    (e.health = .failed → e.timer = .running .tPwait 0 → (s.settings.policies.get v).autoProbe = true →
      exec (.tpwaitExpiry v) s = .next ((s.setVolume v
        ⟨.probing, e.faultCount, .running .tPto s.settings.tPto⟩).raise (.volumeProbeRequest v)) ∧
      (s.ready → ∀ t, exec (.tpwaitExpiry v) s = .next t → exec (.probeVolume form volume) t =
        .next (t.respond (.probeVolume form volume) ⟨.volumeState, []⟩))) ∧
    (e.health = .failed → e.timer = .running .tPwait 0 → (s.settings.policies.get v).autoProbe = false →
      exec (.tpwaitExpiry v) s = .next (s.setVolume v ⟨.failed, e.faultCount, .idle⟩)) ∧
    (s.ready → e.health = .failed → ∀ t, exec (.probeVolume form volume) s = .next t →
      exec (.tpwaitExpiry v) t = .next t)

/-- PROBE RESULT GOOD takes a PROBING volume to SETTLING with tSTABLE, and BAD to FAILED with tPWAIT and
VOLUME_FAILED; the expiry of tPTO takes it to FAILED with tPWAIT and VOLUME_FAILED. The count is kept. A
result that comes after the expiry, or in any other health but UNREGISTERED, is refused VOLUME_STATE, and
after a result the expiry does not happen (R119, R120). -/
def Obligations.ProbesEnd : Prop :=
  ∀ (form volume result : Byte) (v : Fin 64) (s : State) (e : Volume), volume.toNat = v.val →
    result = 1#8 ∨ result = 2#8 → e = s.volumes.get v →
    (s.ready → e.health = .probing → result = 1#8 → exec (.probeResult form volume result) s =
      .next ((s.setVolume v ⟨.settling, e.faultCount, .running .tStable s.settings.tStable⟩).respond
        (.probeResult form volume result)
        ⟨.ok, Volume.bytes ⟨.settling, e.faultCount, .running .tStable s.settings.tStable⟩⟩)) ∧
    (s.ready → e.health = .probing → result = 2#8 → exec (.probeResult form volume result) s =
      .next (((s.setVolume v ⟨.failed, e.faultCount, .running .tPwait s.settings.tPwait⟩).raise
        (.volumeFailed v)).respond (.probeResult form volume result)
        ⟨.ok, Volume.bytes ⟨.failed, e.faultCount, .running .tPwait s.settings.tPwait⟩⟩)) ∧
    (s.ready → e.health = .online ∨ e.health = .failed ∨ e.health = .settling →
      exec (.probeResult form volume result) s =
        .next (s.respond (.probeResult form volume result) ⟨.volumeState, []⟩)) ∧
    (e.health = .probing → e.timer = .running .tPto 0 →
      exec (.tptoExpiry v) s = .next ((s.setVolume v
        ⟨.failed, e.faultCount, .running .tPwait s.settings.tPwait⟩).raise (.volumeFailed v)) ∧
      (s.ready → ∀ t, exec (.tptoExpiry v) s = .next t →
        exec (.probeResult form volume result) t =
          .next (t.respond (.probeResult form volume result) ⟨.volumeState, []⟩))) ∧
    (s.ready → e.health = .probing → ∀ t, exec (.probeResult form volume result) s = .next t →
      exec (.tptoExpiry v) t = .next t)

/-- The expiry of tSTABLE returns a SETTLING volume to ONLINE with count 0 and VOLUME_RETURNED when auto
return is yes, and leaves it SETTLING with its timer idle when it is no. A SETTLING volume's copies are not
eligible (R121, R127). -/
def Obligations.SettlingEnds : Prop :=
  ∀ (v : Fin 64) (s : State) (e : Volume), e = s.volumes.get v → e.health = .settling →
    (∀ q : Placement, q.volume = v → q.eligible s.volumes = false) ∧
    (e.timer = .running .tStable 0 →
      ((s.settings.policies.get v).autoReturn = true → exec (.tstableExpiry v) s =
        .next ((s.setVolume v ⟨.online, 0, .idle⟩).raise (.volumeReturned v))) ∧
      ((s.settings.policies.get v).autoReturn = false → exec (.tstableExpiry v) s =
        .next (s.setVolume v ⟨.settling, e.faultCount, .idle⟩)))

/-- FAIL VOLUME takes a registered volume to FAILED, stops what its timer runs, starts tPWAIT in full, and
keeps the fault count; RESTORE VOLUME takes it to ONLINE, sets its fault count to 0 and stops its timer, and a
copy on the volume is eligible from then on. Neither raises a notice. A probe in progress is abandoned, and a
PROBE RESULT sent for it afterwards is refused VOLUME_STATE (R122, R123). -/
def Obligations.VolumesFailAndReturn : Prop :=
  ∀ (form volume : Byte) (v : Fin 64) (s : State) (e : Volume), s.ready → volume.toNat = v.val →
    e = s.volumes.get v → e.health ≠ .unregistered →
    exec (.failVolume form volume) s = .next ((s.setVolume v
        ⟨.failed, e.faultCount, .running .tPwait s.settings.tPwait⟩).respond (.failVolume form volume)
      ⟨.ok, Volume.bytes ⟨.failed, e.faultCount, .running .tPwait s.settings.tPwait⟩⟩) ∧
    exec (.restoreVolume form volume) s = .next ((s.setVolume v ⟨.online, 0, .idle⟩).respond
      (.restoreVolume form volume) ⟨.ok, Volume.bytes ⟨.online, 0, .idle⟩⟩) ∧
    (∀ t, exec (.restoreVolume form volume) s = .next t →
      ∀ q : Placement, q.volume = v → q.eligible t.volumes = true) ∧
    ∀ i t u result, i = .failVolume form volume ∨ i = .restoreVolume form volume →
      exec i s = .next t → u = t.withLink s.link → result = 1#8 ∨ result = 2#8 →
      exec (.probeResult form volume result) u =
        .next (u.respond (.probeResult form volume result) ⟨.volumeState, []⟩)

/-! ### Notices -/

/-- ARM NOTICES by the state it meets: with the latch LOW and an enabled kind pending the line latches and
ARMED is clear; with none pending ARMED stays set; with the line LATCHED ARMED is set and the line stays
high. ENABLE NOTICES: the set mask's kinds join the enables and then the clear mask's leave them, bits
beyond the ten kinds ignored, and the line latches within the command when ARMED is set, the line low and an
enabled kind pending (R196, R197, R198). TAKE NOTICES reports the pending kinds, the enables, the six masks
and the last-commit record in 42 bytes, and in the same step clears the pending set, the masks and the
last-commit record and sets the latch LOW; ARMED stays. A raise taken after it stays pending, and latches the
line when ARMED is set and its kind enabled (R199, R200, R214). -/
def Obligations.NoticeCommandsAct : Prop :=
  ((∀ (form : Byte) (s : State), s.ready →
    (s.notices.latched = false → s.notices.enabledPending s.settings.noticeEnables = true →
      exec (.armNotices form) s = .next
        ((s.withNotices { s.notices with armed := false, latched := true }).respond
          (.armNotices form) ⟨.ok, [0, 1]⟩)) ∧
    (s.notices.latched = false → s.notices.enabledPending s.settings.noticeEnables = false →
      exec (.armNotices form) s = .next
        ((s.withNotices { s.notices with armed := true }).respond (.armNotices form) ⟨.ok, [1, 0]⟩)) ∧
    (s.notices.latched = true → exec (.armNotices form) s = .next
      ((s.withNotices { s.notices with armed := true }).respond (.armNotices form) ⟨.ok, [1, 1]⟩))) ∧
  ∀ (form : Byte) (setMask clearMask : BitVec 16) (s : State), s.ready → ∃ enables : BitVec 10,
    (∀ k, k < 10 → enables.getLsbD k =
      ((s.settings.noticeEnables.getLsbD k || setMask.getLsbD k) && !clearMask.getLsbD k)) ∧
    exec (.enableNotices form setMask clearMask) s = .next
      (((s.withSettings { s.settings with noticeEnables := enables }).withNotices
        (if s.notices.armed = true ∧ s.notices.latched = false ∧
            s.notices.enabledPending enables = true then
          { s.notices with armed := false, latched := true } else s.notices)).respond
        (.enableNotices form setMask clearMask) ⟨.ok, bytesOf 2 enables.toNat⟩)) ∧
  ∀ (form : Byte) (s : State), s.ready → ∃ report,
    exec (.takeNotices form) s = .next (((s.withNotices
        ⟨false, false, false, false, 0, 0, 0, 0, 0, 0, s.notices.armed, false⟩).withEngine
      { s.engine with lastCommit := none }).respond (.takeNotices form) ⟨.ok, report⟩) ∧
    report.length = 42 ∧
    report = bytesOf 2 s.notices.kinds.toNat ++ bytesOf 2 s.settings.noticeEnables.toNat
      ++ bytesOf 2 s.notices.cursorStalled.toNat ++ bytesOf 2 s.notices.cursorDetached.toNat
      ++ bytesOf 2 s.notices.cursorFaulted.toNat ++ bytesOf 8 s.notices.volumeFailed.toNat
      ++ bytesOf 8 s.notices.volumeProbeRequest.toNat ++ bytesOf 8 s.notices.volumeReturned.toNat
      ++ (match s.engine.lastCommit with
        | none => [0, 0, 0, 0, 0, 0, 0, 0]
        | some l => [1] ++ bytesOf 3 l.accession ++ [l.kind.byte, l.outcome.byte]
          ++ bytesOf 2 l.revision.toNat) ∧
    (∀ k : NoticeKind, s.notices.kinds.getLsbD k.bit = s.notices.isPending k) ∧
    ∀ (t : State) (x : Notice), exec (.takeNotices form) s = .next t →
      (t.raise x).notices.isPending x.kind = true ∧
      (∀ k, k ≠ x.kind → (t.raise x).notices.isPending k = false) ∧
      ((t.raise x).notices.latched = true ↔
        s.notices.armed = true ∧ s.settings.noticeEnables.getLsbD x.kind.bit = true)

/-! ### Settings -/

/-- An admitted SET SETTING writes one live value and answers it; no other setting, no stored value and not
the link's present lane count changes. A write of the value held changes nothing but the frame. A changed
registered setting moves its volume and nothing else; changed notice enables latch the line at once where ARMED
is set and an enabled kind pending; a changed tHOLD reaches at once the stages it makes due, and the engine then
takes what it may; every other changed setting acts on nothing else. A value outside the range, an unknown
number or a volume above 63 is refused MALFORMED and changes nothing but the frame. READ SETTING answers the
live value, the value of the next reset and its source (R112, R167, R187, R196, R197, R205, R206, R214). The
volume byte of a setting that is not per volume is log entry 11. -/
def Obligations.SettingsWriteAndRead : Prop :=
  ∀ (form number volume : Byte) (value : BitVec 32) (s : State), s.ready →
    (∀ name v, settingNamed number volume = some (name, v) → name.admits value.toNat = true →
      ∃ t live, exec (.setSetting form number volume value) s =
          .next (t.respond (.setSetting form number volume value)
            ⟨.ok, [number] ++ bytesOf 1 v.val ++ bytesOf 4 live⟩) ∧
        live = (if name = .noticeEnables then value.toNat % 1024 else value.toNat) ∧
        t.settings.value v name = live ∧
        (∀ other w, other ≠ name ∨ (name.perVolume = true ∧ w ≠ v) →
          t.settings.value w other = s.settings.value w other) ∧
        t.store = s.store ∧ t.link = s.link ∧ t.resolution = s.resolution ∧
        (s.settings.value v name = live → t = s) ∧
        (s.settings.value v name ≠ live → ∀ u, u = s.withSettings t.settings →
          (name ∉ [.registered, .tHold1, .tHold2, .tHold3, .noticeEnables] → t = u) ∧
          (name = .registered → t = u.setVolume v
            ⟨if live = 1 then .online else .unregistered, 0, .idle⟩) ∧
          (name = .noticeEnables → t = u.withNotices
            (if s.notices.armed = true ∧ s.notices.latched = false ∧
                s.notices.enabledPending t.settings.noticeEnables = true then
              { s.notices with armed := false, latched := true } else s.notices)) ∧
          (name ∈ [.tHold1, .tHold2, .tHold3] →
            ((∀ e ∈ s.queue, e.state = .waiting → e.dueStages t.settings = []) →
              exec .takeReadyEntry u = .next t) ∧
            ∀ (accession : BitVec 24) (e : Entry), e ∈ s.queue → e.accession = accession.toNat →
              (s.queue.map (·.accession)).Nodup →
              (∀ x ∈ s.queue, x ≠ e → x.state = .waiting → x.dueStages t.settings = []) →
              (∀ x ∈ s.queue, x.state = .ready → framesNaming s.cursors x.accession = 0) →
              exec (.stageReached accession) u = .next t))) ∧
    ((∀ name v, settingNamed number volume = some (name, v) → name.admits value.toNat = false) →
      exec (.setSetting form number volume value) s =
        .next (s.respond (.setSetting form number volume value) ⟨.malformed, [0x14, 0x41]⟩)) ∧
    (settingNamed number volume = none → exec (.readSetting form number volume) s =
      .next (s.respond (.readSetting form number volume) ⟨.malformed, [0x14, 0x41]⟩)) ∧
    ∀ name v, settingNamed number volume = some (name, v) →
      exec (.readSetting form number volume) s = .next (s.respond (.readSetting form number volume)
        ⟨.ok, [number] ++ bytesOf 1 v.val ++ bytesOf 4 (s.settings.value v name)
          ++ bytesOf 4 ((s.store.settings.getD Settings.factory).value v name)
          ++ [if s.store.settings.isSome then 1 else 0]⟩)

/-- Registration moves a volume's health at once: no to yes gives ONLINE with count 0 and an idle timer, yes
to no gives UNREGISTERED with count 0 and an idle timer, a write of the value held changes nothing in the
entry, and no notice is raised (R112). The five volume commands are refused MALFORMED for a volume above 63,
or a probe result that is neither GOOD nor BAD, and VOLUME_UNKNOWN for one that is UNREGISTERED (R114). -/
def Obligations.RegistrationGovernsVolumes : Prop :=
  (∀ (form volume result : Byte) (i : Instr) (s : State), s.ready →
    i = .reportFault form volume ∨ i = .probeResult form volume result ∨ i = .probeVolume form volume ∨
      i = .failVolume form volume ∨ i = .restoreVolume form volume →
    (63 < volume.toNat ∨ (i = .probeResult form volume result ∧ result ≠ 1#8 ∧ result ≠ 2#8) →
      exec i s = .next (s.respond i ⟨.malformed, [0x14, 0x41]⟩)) ∧
    ∀ v : Fin 64, volume.toNat = v.val →
      (i = .probeResult form volume result → result = 1#8 ∨ result = 2#8) →
      (s.volumes.get v).health = .unregistered →
      exec i s = .next (s.respond i ⟨.volumeUnknown, []⟩)) ∧
  ∀ (form volume : Byte) (v : Fin 64) (yes : Bool) (s : State), s.ready → volume.toNat = v.val →
    ∃ t, exec (.setSetting form 0x18#8 volume (if yes then 1#32 else 0#32)) s = .next t ∧
      t.notices = s.notices ∧ (∀ w, w ≠ v → t.volumes.get w = s.volumes.get w) ∧
      ((s.settings.policies.get v).registered = yes → t.volumes.get v = s.volumes.get v) ∧
      ((s.settings.policies.get v).registered ≠ yes →
        t.volumes.get v = ⟨if yes then .online else .unregistered, 0, .idle⟩)

/-- R56 whole: CLEAR CONDITION sets the condition to NONE and clears the four sticky flags, and is answered
OK; while the part is STARTING or a soft reset is pending it is answered NOT_READY and leaves them; a reset
leaves them NONE and clear, and while the part is STARTING no command sets them otherwise. -/
def Obligations.ClearConditionClears : Prop :=
  (∀ (form : Byte) (s : State), s.ready → exec (.clearCondition form) s = .next
    ((s.withResolution ⟨.none, false, false, false, false⟩).respond (.clearCondition form)
      ⟨.ok, []⟩)) ∧
  (∀ (form : Byte) (s : State), s.takesCommand = true → s.starting = true ∨ s.resetPending = true →
    exec (.clearCondition form) s =
      .next (s.respond (.clearCondition form) ⟨.notReady, []⟩)) ∧
  (∀ pending selectLow store k, (State.startUp pending selectLow store k).resolution =
    ⟨.none, false, false, false, false⟩) ∧
  (∀ (i : Instr) (s t : State), (∃ mark, i = .hardReset mark) ∨
      (i = .resetNRelease ∧ s.pins.held = true) ∨
      (∃ sampled, i = .frameEnd sampled ∧ s.pins.selectLow = true ∧ s.link.resetOrdered = true ∧
        s.engine.inFlight = none) ∨
      ((i = .commitComplete ∨ i = .commitStoreFault) ∧ s.engine.inFlight.isSome = true ∧
        s.resetPending = true) →
    exec i s = .next t → t.resolution = ⟨.none, false, false, false, false⟩) ∧
  ∀ (i : Instr) (s t : State), s.starting = true →
    s.resolution = ⟨.none, false, false, false, false⟩ → exec i s = .next t →
    t.resolution = ⟨.none, false, false, false, false⟩

/-! ### Time and escalation -/

/-- A tick with no expiry due: the millisecond count rises by 1, every running timer loses one millisecond,
the age of every WAITING entry rises by 1 while the engine is THAWED and stays at its greatest value, and
where no age comes to a threshold nothing else changes. Where one entry's age does, its stage is reached and
its action taken in the tick itself. An expiry that was left due is taken by the tick before it counts, as its
own row would take it, the lowest volume first (R110, R111, R165, R167, R174). That an expiry may be left due
is log entry 5, and the order of the volumes log entry 13. -/
def Obligations.TickCounts : Prop :=
  (∀ s : State, s.pins.held = false → (∀ v i, (s.volumes.get v).timer ≠ .running i 0) →
    ∃ u : State,
      u = ((s.withMilliseconds (s.milliseconds + 1)).withVolumes u.volumes).withQueue u.queue ∧
      (∀ v, u.volumes.get v = { s.volumes.get v with
        timer := match (s.volumes.get v).timer with
          | .idle => .idle
          | .running i r => .running i (r - 1) }) ∧
      (s.engine.frozen = true → u.queue = s.queue) ∧
      (s.engine.frozen = false → u.queue = s.queue.map fun e =>
        if e.state = .waiting then { e with age := min (e.age + 1) 4294967295 } else e) ∧
      (s.readyTaken → (∀ e ∈ u.queue, e.state = .waiting → e.dueStages s.settings = []) →
        exec .timeBaseTick s = .next u) ∧
      ∀ (accession : BitVec 24) (e : Entry), s.engine.frozen = false → e ∈ s.queue →
        e.accession = accession.toNat → (s.queue.map (·.accession)).Nodup →
        (∀ x ∈ u.queue, x.accession ≠ accession.toNat → x.state = .waiting →
          x.dueStages s.settings = []) →
        (∀ x ∈ s.queue, x.state = .ready → framesNaming s.cursors x.accession = 0) →
        exec .timeBaseTick s = exec (.stageReached accession) u) ∧
  ∀ (s t : State) (v : Fin 64) (i : Interval), s.pins.held = false →
    (s.volumes.get v).timer = .running i 0 →
    (∀ w j, w < v → (s.volumes.get w).timer ≠ .running j 0) →
    0 < s.settings.tPwait → 0 < s.settings.tPto →
    exec (match i with
      | .tFwin => .tfwinExpiry v
      | .tPwait => .tpwaitExpiry v
      | .tPto => .tptoExpiry v
      | .tStable => .tstableExpiry v) s = .next t →
    t.pins = s.pins ∧ (∀ j, (t.volumes.get v).timer ≠ .running j 0) ∧
      exec .timeBaseTick s = exec .timeBaseTick t

/-- A WAITING entry whose age has reached one or more thresholds reaches each of those stages in turn, and its
stage ends at the highest. An action NONE records the stage alone; NOTIFY, YIELD and DETACH raise CHANGE_STAGE;
YIELD also sets the yield flag of every cursor whose path names the item, OPEN becoming YIELDING; DETACH also
drops the path of every such cursor, which becomes DETACHED, and the item's count falls to 0, so the entry waits
no more (R99, R100, R161, R167 to R170). That a stage after a DETACH in one comparison is still reached is log
entry 12. In a run the step that makes a stage due reaches it, and the states here are those inside that step
(log entry 5). -/
def Obligations.StageReachedActs : Prop :=
  ∀ (accession : BitVec 24) (s : State) (e : Entry) (k : Nat), s.engine.frozen = false → s.settled →
    s.entry? accession.toNat = some e → e.state = .waiting → (s.queue.map (·.accession)).Nodup →
    e.stage < k → k ≤ 3 → s.settings.threshold k ≤ e.age →
    (k < 3 → e.age < s.settings.threshold (k + 1)) →
    ∀ reached actions, reached = s.withQueue (s.queue.map fun x =>
      if x.accession = accession.toNat then { x with stage := k } else x) →
    actions = ([s.settings.act1, s.settings.act2, s.settings.act3].take k).drop e.stage →
    ((∀ a ∈ actions, a = .none) → exec (.stageReached accession) s = .next reached) ∧
    ((∃ a ∈ actions, a ≠ .none) → .yield ∉ actions → .detach ∉ actions →
      exec (.stageReached accession) s = .next (reached.raise .changeStage)) ∧
    (.yield ∈ actions → .detach ∉ actions →
      exec (.stageReached accession) s = .next ((reached.raise .changeStage).withCursors
        (s.cursors.map fun c =>
          if c.path.any (fun f => f.accession == accession.toNat) then
            { c with yieldFlag := true, state := if c.state = .open then .yielding else c.state }
          else c))) ∧
    (∀ before after, actions = before ++ Action.detach :: after → .detach ∉ before →
      ∃ t, exec (.stageReached accession) s = .next t ∧ t.notices.changeStage = true ∧
        (∀ n, (s.cursors.get n).path.any (fun f => f.accession == accession.toNat) = true →
          t.cursors.get n = { s.cursors.get n with
            state := .detached, path := [], lastCopy := none, pendingWrap := false, fault := none
            yieldFlag := (s.cursors.get n).yieldFlag || decide (.yield ∈ before) } ∧
          t.notices.cursorDetached.getLsbD n.val = true) ∧
        (∀ n, (s.cursors.get n).path.any (fun f => f.accession == accession.toNat) = false →
          t.cursors.get n = s.cursors.get n) ∧
        framesNaming t.cursors accession.toNat = 0 ∧
        (∀ x ∈ t.queue, x.accession = accession.toNat → x.state ≠ .waiting ∧ x.stage = k) ∧
        ∀ x ∈ t.index.entries, x.useCount = framesNaming t.cursors x.accession)

/-! ### Invariants -/

/-- Every invariant below holds of the state after reset. The blank store that State.reset stands on is log
entry 3. -/
def Obligations.ResetMeetsInvariants : Prop :=
  State.reset.latchSettled ∧ State.reset.usesSound ∧ State.reset.cursorsCoherent ∧
    State.reset.queueBounded ∧ State.reset.readyTaken ∧ State.reset.listsSound ∧
    State.reset.queueSound ∧ State.reset.volumesSound ∧ State.reset.cursorsStand

/-- No step leaves the line low with ARMED set and an enabled kind pending (R197, R200). -/
def Obligations.LatchInvariant : Prop :=
  ∀ s t : State, s.latchSettled → step s = .next t → t.latchSettled

/-- Every step keeps the catalogue in ascending accession with its two indexes in agreement, keeps the change
in flight and the deferred changes as their acceptance left them, and conserves the 16,384 slots and the
131,072 segment places (R10, R13, R14, R34, R36, R139, R140). -/
def Obligations.StoreInvariant : Prop :=
  ∀ s t : State, s.storeSound → step s = .next t → t.storeSound

/-- Every step keeps each use count equal to the number of path frames that name its record, and keeps every
path on records that stand (R4, R8, R71, R145). -/
def Obligations.UseCountInvariant : Prop :=
  ∀ s t : State, s.usesSound → step s = .next t → t.usesSound

/-- Every step keeps each cursor's state, path, yield flag and fault code in agreement, and its path at four
frames or fewer (R62, R80, R81). That a DETACHED cursor holds no fault code, which R100 does not say, is the
model's reading (log entry 19). The one frame of an ENDED cursor is in CursorsStandInvariant. -/
def Obligations.CursorInvariant : Prop :=
  ∀ s t : State, s.cursorsCoherent → step s = .next t → t.cursorsCoherent

/-- Every step keeps the deferral queue at eight entries or fewer, one an accession, of stage 0 to 3 and of
an age that fits its field (R158, R159, R165), and no step leaves a READY entry with the engine IDLE, THAWED
and free of a pending reset (R162, R203). -/
def Obligations.QueueInvariant : Prop :=
  (∀ s t : State, s.queueBounded → step s = .next t → t.queueBounded) ∧
  ∀ s t : State, s.readyTaken → step s = .next t → t.readyTaken

/-- Every step keeps the deferral queue in agreement with the rest: the pending field yes exactly while an
entry for the accession is in the queue (R4, R159), a WAITING entry's item in use and a READY entry's not, the
COMMITTING entry the change in flight (R161, R163), no two changes in hand on one item (R139, R140), and no
stage of a WAITING entry standing due while the engine is THAWED (R167, R174). -/
def Obligations.QueueAgreesInvariant : Prop :=
  ∀ s t : State, s.queueSound → step s = .next t → t.queueSound

/-- Every step keeps each standing ACTIVE or CERTIFIED record's 1 to 64 segments tiling it from 0 to its
duration, and each WITHDRAWN record without segments (R1, R6, R28). -/
def Obligations.TilingInvariant : Prop :=
  ∀ s t : State, s.listsSound → step s = .next t → t.listsSound

/-- Every step keeps every setting in its range, and every volume's health, registered setting, fault count
and running interval in agreement by the table of R108 (R108, R110, R112, R115, R204). -/
def Obligations.VolumeInvariant : Prop :=
  ∀ s t : State, s.volumesSound → step s = .next t → t.volumesSound

/-- Every step keeps each cursor within its top item: the position at most the duration (R102), the path from
the top accession, and an ENDED cursor with one frame, the top frame at end wherever the revision check lets it
stand (R61, R81). The premise revisionsFresh leaves out a completion that brings an item back to a revision
that a standing frame saw 65,536 changes before, which the revision check cannot tell (R3, R75). -/
def Obligations.CursorsStandInvariant : Prop :=
  ∀ s t : State, s.cursorsStand → s.revisionsFresh → step s = .next t → t.cursorsStand
end

