-- ==== Sys2Proof/Laws/Bytes.lean ====
section
/-! SUPPORT. The byte codec of the link: the bytes of a number spell that number, a field of a layout reads
what was laid out there, and the clocks of a byte carry that byte. -/

namespace Sys2Proof

@[simp] theorem length_bytesOf (n x : Nat) : (bytesOf n x).length = n := by
  induction n generalizing x with
  | zero => rfl
  | succ n ih => simp [bytesOf, ih]

@[simp] theorem numberOf_nil : numberOf [] = 0 := rfl

@[simp] theorem numberOf_singleton (b : Byte) : numberOf [b] = b.toNat := by simp [numberOf]

/-- One more byte after a list of bytes. -/
theorem numberOf_append (xs : List Byte) (b : Byte) :
    numberOf (xs ++ [b]) = numberOf xs * 256 + b.toNat := by
  simp [numberOf, List.foldl_append]

/-- A byte before a list of bytes. -/
theorem numberOf_cons (b : Byte) (xs : List Byte) :
    numberOf (b :: xs) = b.toNat * 256 ^ xs.length + numberOf xs := by
  induction xs using List.reverseRecOn with
  | nil => simp
  | append_singleton xs c ih =>
    rw [← List.cons_append, numberOf_append, numberOf_append, ih]
    simp [pow_succ]; ring

/-- A number of at most `n` bytes is what its bytes spell. -/
theorem numberOf_bytesOf (n x : Nat) : numberOf (bytesOf n x) = x % 256 ^ n := by
  induction n with
  | zero => simp [bytesOf, Nat.mod_one]
  | succ n ih =>
    have e : x % (256 ^ n * 256) = x % 256 ^ n + 256 ^ n * (x / 256 ^ n % 256) := Nat.mod_mul
    rw [bytesOf, numberOf_cons, ih, length_bytesOf, pow_succ, e]
    simp; ring

/-- A field of the width of its bytes reads what those bytes were written from. -/
theorem ofNat_numberOf_bytesOf {w : Nat} (n : Nat) (x : BitVec w) (h : w = 8 * n) :
    BitVec.ofNat w (numberOf (bytesOf n x.toNat)) = x := by
  subst h
  rw [numberOf_bytesOf]
  have : (256 : Nat) ^ n = 2 ^ (8 * n) := by rw [pow_mul]; norm_num
  rw [this, Nat.mod_eq_of_lt x.isLt]
  simp

/-- A field whose bytes stand at its place reads what they were written from. -/
theorem fieldOf_eq {w offset n : Nat} {bytes : List Byte} {x : BitVec w}
    (h : (bytes.drop offset).take n = bytesOf n x.toNat) (hw : w = 8 * n) :
    fieldOf w offset n bytes = x := by
  rw [fieldOf, h, ofNat_numberOf_bytesOf n x hw]

/-- A field of one byte reads the byte at its place. -/
theorem fieldOf_byte {offset : Nat} {bytes : List Byte} {b : Byte}
    (h : (bytes.drop offset).take 1 = [b]) : fieldOf 8 offset 1 bytes = b := by
  simp [fieldOf, h]

/-! ### The record layouts of R212 -/

@[simp] theorem WireHeader.length_bytes (h : WireHeader) : h.bytes.length = 32 := by
  simp [WireHeader.bytes]

@[simp] theorem WireSegment.length_bytes (g : WireSegment) : g.bytes.length = 48 := by
  simp [WireSegment.bytes]

@[simp] theorem WireFields.length_bytes (f : WireFields) : f.bytes.length = 12 := by
  simp [WireFields.bytes]

/-- A header's 32 bytes spell it. -/
@[simp] theorem WireHeader.ofBytes_bytes (h : WireHeader) : WireHeader.ofBytes h.bytes = h := by
  cases h
  simp only [WireHeader.ofBytes, WireHeader.mk.injEq, WireHeader.bytes, bytesOf, List.cons_append,
    List.nil_append]
  exact ⟨fieldOf_eq rfl rfl, fieldOf_byte rfl, fieldOf_byte rfl, fieldOf_byte rfl, fieldOf_byte rfl,
    fieldOf_byte rfl, fieldOf_eq rfl rfl, fieldOf_eq rfl rfl, fieldOf_byte rfl, fieldOf_byte rfl,
    fieldOf_byte rfl, fieldOf_eq rfl rfl, fieldOf_eq rfl rfl, fieldOf_byte rfl, fieldOf_eq rfl rfl,
    fieldOf_byte rfl, fieldOf_byte rfl, fieldOf_eq rfl rfl⟩

/-- A segment's 48 bytes spell it. -/
@[simp] theorem WireSegment.ofBytes_bytes (g : WireSegment) : WireSegment.ofBytes g.bytes = g := by
  cases g
  simp only [WireSegment.ofBytes, WireSegment.mk.injEq, WireSegment.bytes, bytesOf, List.cons_append,
    List.nil_append]
  exact ⟨fieldOf_byte rfl, fieldOf_byte rfl, fieldOf_eq rfl rfl, fieldOf_eq rfl rfl, fieldOf_eq rfl rfl,
    fieldOf_eq rfl rfl, fieldOf_eq rfl rfl, fieldOf_eq rfl rfl, fieldOf_eq rfl rfl, fieldOf_byte rfl,
    fieldOf_eq rfl rfl, fieldOf_eq rfl rfl, fieldOf_byte rfl, fieldOf_eq rfl rfl, fieldOf_eq rfl rfl,
    fieldOf_byte rfl⟩

/-- The value bytes of SET ITEM FIELDS spell them. -/
@[simp] theorem WireFields.ofBytes_bytes (f : WireFields) : WireFields.ofBytes f.bytes = f := by
  cases f
  simp only [WireFields.ofBytes, WireFields.mk.injEq, WireFields.bytes, bytesOf, List.cons_append,
    List.nil_append]
  exact ⟨fieldOf_byte rfl, fieldOf_eq rfl rfl, fieldOf_byte rfl, fieldOf_byte rfl, fieldOf_byte rfl,
    fieldOf_eq rfl rfl, fieldOf_byte rfl, fieldOf_byte rfl⟩

@[simp] theorem length_flatMap_segment_bytes (segments : List WireSegment) :
    (segments.flatMap WireSegment.bytes).length = 48 * segments.length := by
  induction segments with
  | nil => rfl
  | cons g rest ih => simp [ih]; omega

/-- The bytes of a list of segments spell the list. -/
@[simp] theorem segmentsOfBytes_flatMap (segments : List WireSegment) :
    segmentsOfBytes segments.length (segments.flatMap WireSegment.bytes) = segments := by
  induction segments with
  | nil => rfl
  | cons g rest ih => simp [segmentsOfBytes, ih, List.take_left', List.drop_left']

/-- The segment count byte of a header stands at byte 19 of what begins with the header (R212). -/
theorem segmentCount_field (h : WireHeader) (rest : List Byte) :
    fieldOf 8 19 1 (h.bytes ++ rest) = h.segmentCount :=
  fieldOf_byte (by cases h; rfl)

/-! ### Clocks -/

/-- A byte takes eight clocks on one lane, four on two and two on four (R180). -/
theorem length_clocksOfByte {lanes : Nat} (h : lanes = 1 ∨ lanes = 2 ∨ lanes = 4) (b : Byte) :
    (clocksOfByte lanes b).length = clocksPerByte lanes := by
  rcases h with rfl | rfl | rfl <;> rfl

/-- The clocks of a byte carry that byte (R180). -/
theorem byteOfClocks_clocksOfByte {lanes : Nat} (h : lanes = 1 ∨ lanes = 2 ∨ lanes = 4) (b : Byte) :
    byteOfClocks lanes (clocksOfByte lanes b) = b := by
  revert b
  rcases h with rfl | rfl | rfl <;> decide +kernel

end Sys2Proof
end

