-- ==== Sys2Proof/Laws/State.lean ====
section
/-! SUPPORT. What each update of the state leaves in each field. -/

namespace Sys2Proof.Machine

variable (s : State)

/-! ### withPending -/

@[simp] theorem State.withPending_pending (x : List Instr) : (s.withPending x).pending = x := rfl
@[simp] theorem State.withPending_pins (x : List Instr) : (s.withPending x).pins = s.pins := rfl
@[simp] theorem State.withPending_link (x : List Instr) : (s.withPending x).link = s.link := rfl
@[simp] theorem State.withPending_starting (x : List Instr) : (s.withPending x).starting = s.starting := rfl
@[simp] theorem State.withPending_resetPending (x : List Instr) : (s.withPending x).resetPending = s.resetPending := rfl
@[simp] theorem State.withPending_store (x : List Instr) : (s.withPending x).store = s.store := rfl
@[simp] theorem State.withPending_index (x : List Instr) : (s.withPending x).index = s.index := rfl
@[simp] theorem State.withPending_resolution (x : List Instr) : (s.withPending x).resolution = s.resolution := rfl
@[simp] theorem State.withPending_cursors (x : List Instr) : (s.withPending x).cursors = s.cursors := rfl
@[simp] theorem State.withPending_volumes (x : List Instr) : (s.withPending x).volumes = s.volumes := rfl
@[simp] theorem State.withPending_engine (x : List Instr) : (s.withPending x).engine = s.engine := rfl
@[simp] theorem State.withPending_queue (x : List Instr) : (s.withPending x).queue = s.queue := rfl
@[simp] theorem State.withPending_notices (x : List Instr) : (s.withPending x).notices = s.notices := rfl
@[simp] theorem State.withPending_settings (x : List Instr) : (s.withPending x).settings = s.settings := rfl
@[simp] theorem State.withPending_milliseconds (x : List Instr) : (s.withPending x).milliseconds = s.milliseconds := rfl
@[simp] theorem State.withPending_openValues (x : List Instr) : (s.withPending x).openValues = s.openValues := rfl
theorem State.withPending_self : s.withPending s.pending = s := rfl

/-! ### withPins -/

@[simp] theorem State.withPins_pending (x : Pins) : (s.withPins x).pending = s.pending := rfl
@[simp] theorem State.withPins_pins (x : Pins) : (s.withPins x).pins = x := rfl
@[simp] theorem State.withPins_link (x : Pins) : (s.withPins x).link = s.link := rfl
@[simp] theorem State.withPins_starting (x : Pins) : (s.withPins x).starting = s.starting := rfl
@[simp] theorem State.withPins_resetPending (x : Pins) : (s.withPins x).resetPending = s.resetPending := rfl
@[simp] theorem State.withPins_store (x : Pins) : (s.withPins x).store = s.store := rfl
@[simp] theorem State.withPins_index (x : Pins) : (s.withPins x).index = s.index := rfl
@[simp] theorem State.withPins_resolution (x : Pins) : (s.withPins x).resolution = s.resolution := rfl
@[simp] theorem State.withPins_cursors (x : Pins) : (s.withPins x).cursors = s.cursors := rfl
@[simp] theorem State.withPins_volumes (x : Pins) : (s.withPins x).volumes = s.volumes := rfl
@[simp] theorem State.withPins_engine (x : Pins) : (s.withPins x).engine = s.engine := rfl
@[simp] theorem State.withPins_queue (x : Pins) : (s.withPins x).queue = s.queue := rfl
@[simp] theorem State.withPins_notices (x : Pins) : (s.withPins x).notices = s.notices := rfl
@[simp] theorem State.withPins_settings (x : Pins) : (s.withPins x).settings = s.settings := rfl
@[simp] theorem State.withPins_milliseconds (x : Pins) : (s.withPins x).milliseconds = s.milliseconds := rfl
@[simp] theorem State.withPins_openValues (x : Pins) : (s.withPins x).openValues = s.openValues := rfl
theorem State.withPins_self : s.withPins s.pins = s := rfl

/-! ### withLink -/

@[simp] theorem State.withLink_pending (x : Link) : (s.withLink x).pending = s.pending := rfl
@[simp] theorem State.withLink_pins (x : Link) : (s.withLink x).pins = s.pins := rfl
@[simp] theorem State.withLink_link (x : Link) : (s.withLink x).link = x := rfl
@[simp] theorem State.withLink_starting (x : Link) : (s.withLink x).starting = s.starting := rfl
@[simp] theorem State.withLink_resetPending (x : Link) : (s.withLink x).resetPending = s.resetPending := rfl
@[simp] theorem State.withLink_store (x : Link) : (s.withLink x).store = s.store := rfl
@[simp] theorem State.withLink_index (x : Link) : (s.withLink x).index = s.index := rfl
@[simp] theorem State.withLink_resolution (x : Link) : (s.withLink x).resolution = s.resolution := rfl
@[simp] theorem State.withLink_cursors (x : Link) : (s.withLink x).cursors = s.cursors := rfl
@[simp] theorem State.withLink_volumes (x : Link) : (s.withLink x).volumes = s.volumes := rfl
@[simp] theorem State.withLink_engine (x : Link) : (s.withLink x).engine = s.engine := rfl
@[simp] theorem State.withLink_queue (x : Link) : (s.withLink x).queue = s.queue := rfl
@[simp] theorem State.withLink_notices (x : Link) : (s.withLink x).notices = s.notices := rfl
@[simp] theorem State.withLink_settings (x : Link) : (s.withLink x).settings = s.settings := rfl
@[simp] theorem State.withLink_milliseconds (x : Link) : (s.withLink x).milliseconds = s.milliseconds := rfl
@[simp] theorem State.withLink_openValues (x : Link) : (s.withLink x).openValues = s.openValues := rfl
theorem State.withLink_self : s.withLink s.link = s := rfl

/-! ### withStarting -/

@[simp] theorem State.withStarting_pending (x : Bool) : (s.withStarting x).pending = s.pending := rfl
@[simp] theorem State.withStarting_pins (x : Bool) : (s.withStarting x).pins = s.pins := rfl
@[simp] theorem State.withStarting_link (x : Bool) : (s.withStarting x).link = s.link := rfl
@[simp] theorem State.withStarting_starting (x : Bool) : (s.withStarting x).starting = x := rfl
@[simp] theorem State.withStarting_resetPending (x : Bool) : (s.withStarting x).resetPending = s.resetPending := rfl
@[simp] theorem State.withStarting_store (x : Bool) : (s.withStarting x).store = s.store := rfl
@[simp] theorem State.withStarting_index (x : Bool) : (s.withStarting x).index = s.index := rfl
@[simp] theorem State.withStarting_resolution (x : Bool) : (s.withStarting x).resolution = s.resolution := rfl
@[simp] theorem State.withStarting_cursors (x : Bool) : (s.withStarting x).cursors = s.cursors := rfl
@[simp] theorem State.withStarting_volumes (x : Bool) : (s.withStarting x).volumes = s.volumes := rfl
@[simp] theorem State.withStarting_engine (x : Bool) : (s.withStarting x).engine = s.engine := rfl
@[simp] theorem State.withStarting_queue (x : Bool) : (s.withStarting x).queue = s.queue := rfl
@[simp] theorem State.withStarting_notices (x : Bool) : (s.withStarting x).notices = s.notices := rfl
@[simp] theorem State.withStarting_settings (x : Bool) : (s.withStarting x).settings = s.settings := rfl
@[simp] theorem State.withStarting_milliseconds (x : Bool) : (s.withStarting x).milliseconds = s.milliseconds := rfl
@[simp] theorem State.withStarting_openValues (x : Bool) : (s.withStarting x).openValues = s.openValues := rfl
theorem State.withStarting_self : s.withStarting s.starting = s := rfl

/-! ### withResetPending -/

@[simp] theorem State.withResetPending_pending (x : Bool) : (s.withResetPending x).pending = s.pending := rfl
@[simp] theorem State.withResetPending_pins (x : Bool) : (s.withResetPending x).pins = s.pins := rfl
@[simp] theorem State.withResetPending_link (x : Bool) : (s.withResetPending x).link = s.link := rfl
@[simp] theorem State.withResetPending_starting (x : Bool) : (s.withResetPending x).starting = s.starting := rfl
@[simp] theorem State.withResetPending_resetPending (x : Bool) : (s.withResetPending x).resetPending = x := rfl
@[simp] theorem State.withResetPending_store (x : Bool) : (s.withResetPending x).store = s.store := rfl
@[simp] theorem State.withResetPending_index (x : Bool) : (s.withResetPending x).index = s.index := rfl
@[simp] theorem State.withResetPending_resolution (x : Bool) : (s.withResetPending x).resolution = s.resolution := rfl
@[simp] theorem State.withResetPending_cursors (x : Bool) : (s.withResetPending x).cursors = s.cursors := rfl
@[simp] theorem State.withResetPending_volumes (x : Bool) : (s.withResetPending x).volumes = s.volumes := rfl
@[simp] theorem State.withResetPending_engine (x : Bool) : (s.withResetPending x).engine = s.engine := rfl
@[simp] theorem State.withResetPending_queue (x : Bool) : (s.withResetPending x).queue = s.queue := rfl
@[simp] theorem State.withResetPending_notices (x : Bool) : (s.withResetPending x).notices = s.notices := rfl
@[simp] theorem State.withResetPending_settings (x : Bool) : (s.withResetPending x).settings = s.settings := rfl
@[simp] theorem State.withResetPending_milliseconds (x : Bool) : (s.withResetPending x).milliseconds = s.milliseconds := rfl
@[simp] theorem State.withResetPending_openValues (x : Bool) : (s.withResetPending x).openValues = s.openValues := rfl
theorem State.withResetPending_self : s.withResetPending s.resetPending = s := rfl

/-! ### withStore -/

@[simp] theorem State.withStore_pending (x : Store) : (s.withStore x).pending = s.pending := rfl
@[simp] theorem State.withStore_pins (x : Store) : (s.withStore x).pins = s.pins := rfl
@[simp] theorem State.withStore_link (x : Store) : (s.withStore x).link = s.link := rfl
@[simp] theorem State.withStore_starting (x : Store) : (s.withStore x).starting = s.starting := rfl
@[simp] theorem State.withStore_resetPending (x : Store) : (s.withStore x).resetPending = s.resetPending := rfl
@[simp] theorem State.withStore_store (x : Store) : (s.withStore x).store = x := rfl
@[simp] theorem State.withStore_index (x : Store) : (s.withStore x).index = s.index := rfl
@[simp] theorem State.withStore_resolution (x : Store) : (s.withStore x).resolution = s.resolution := rfl
@[simp] theorem State.withStore_cursors (x : Store) : (s.withStore x).cursors = s.cursors := rfl
@[simp] theorem State.withStore_volumes (x : Store) : (s.withStore x).volumes = s.volumes := rfl
@[simp] theorem State.withStore_engine (x : Store) : (s.withStore x).engine = s.engine := rfl
@[simp] theorem State.withStore_queue (x : Store) : (s.withStore x).queue = s.queue := rfl
@[simp] theorem State.withStore_notices (x : Store) : (s.withStore x).notices = s.notices := rfl
@[simp] theorem State.withStore_settings (x : Store) : (s.withStore x).settings = s.settings := rfl
@[simp] theorem State.withStore_milliseconds (x : Store) : (s.withStore x).milliseconds = s.milliseconds := rfl
@[simp] theorem State.withStore_openValues (x : Store) : (s.withStore x).openValues = s.openValues := rfl
theorem State.withStore_self : s.withStore s.store = s := rfl

/-! ### withIndex -/

@[simp] theorem State.withIndex_pending (x : Index) : (s.withIndex x).pending = s.pending := rfl
@[simp] theorem State.withIndex_pins (x : Index) : (s.withIndex x).pins = s.pins := rfl
@[simp] theorem State.withIndex_link (x : Index) : (s.withIndex x).link = s.link := rfl
@[simp] theorem State.withIndex_starting (x : Index) : (s.withIndex x).starting = s.starting := rfl
@[simp] theorem State.withIndex_resetPending (x : Index) : (s.withIndex x).resetPending = s.resetPending := rfl
@[simp] theorem State.withIndex_store (x : Index) : (s.withIndex x).store = s.store := rfl
@[simp] theorem State.withIndex_index (x : Index) : (s.withIndex x).index = x := rfl
@[simp] theorem State.withIndex_resolution (x : Index) : (s.withIndex x).resolution = s.resolution := rfl
@[simp] theorem State.withIndex_cursors (x : Index) : (s.withIndex x).cursors = s.cursors := rfl
@[simp] theorem State.withIndex_volumes (x : Index) : (s.withIndex x).volumes = s.volumes := rfl
@[simp] theorem State.withIndex_engine (x : Index) : (s.withIndex x).engine = s.engine := rfl
@[simp] theorem State.withIndex_queue (x : Index) : (s.withIndex x).queue = s.queue := rfl
@[simp] theorem State.withIndex_notices (x : Index) : (s.withIndex x).notices = s.notices := rfl
@[simp] theorem State.withIndex_settings (x : Index) : (s.withIndex x).settings = s.settings := rfl
@[simp] theorem State.withIndex_milliseconds (x : Index) : (s.withIndex x).milliseconds = s.milliseconds := rfl
@[simp] theorem State.withIndex_openValues (x : Index) : (s.withIndex x).openValues = s.openValues := rfl
theorem State.withIndex_self : s.withIndex s.index = s := rfl

/-! ### withResolution -/

@[simp] theorem State.withResolution_pending (x : Resolution) : (s.withResolution x).pending = s.pending := rfl
@[simp] theorem State.withResolution_pins (x : Resolution) : (s.withResolution x).pins = s.pins := rfl
@[simp] theorem State.withResolution_link (x : Resolution) : (s.withResolution x).link = s.link := rfl
@[simp] theorem State.withResolution_starting (x : Resolution) : (s.withResolution x).starting = s.starting := rfl
@[simp] theorem State.withResolution_resetPending (x : Resolution) : (s.withResolution x).resetPending = s.resetPending := rfl
@[simp] theorem State.withResolution_store (x : Resolution) : (s.withResolution x).store = s.store := rfl
@[simp] theorem State.withResolution_index (x : Resolution) : (s.withResolution x).index = s.index := rfl
@[simp] theorem State.withResolution_resolution (x : Resolution) : (s.withResolution x).resolution = x := rfl
@[simp] theorem State.withResolution_cursors (x : Resolution) : (s.withResolution x).cursors = s.cursors := rfl
@[simp] theorem State.withResolution_volumes (x : Resolution) : (s.withResolution x).volumes = s.volumes := rfl
@[simp] theorem State.withResolution_engine (x : Resolution) : (s.withResolution x).engine = s.engine := rfl
@[simp] theorem State.withResolution_queue (x : Resolution) : (s.withResolution x).queue = s.queue := rfl
@[simp] theorem State.withResolution_notices (x : Resolution) : (s.withResolution x).notices = s.notices := rfl
@[simp] theorem State.withResolution_settings (x : Resolution) : (s.withResolution x).settings = s.settings := rfl
@[simp] theorem State.withResolution_milliseconds (x : Resolution) : (s.withResolution x).milliseconds = s.milliseconds := rfl
@[simp] theorem State.withResolution_openValues (x : Resolution) : (s.withResolution x).openValues = s.openValues := rfl
theorem State.withResolution_self : s.withResolution s.resolution = s := rfl

/-! ### withCursors -/

@[simp] theorem State.withCursors_pending (x : Table Cursor 16) : (s.withCursors x).pending = s.pending := rfl
@[simp] theorem State.withCursors_pins (x : Table Cursor 16) : (s.withCursors x).pins = s.pins := rfl
@[simp] theorem State.withCursors_link (x : Table Cursor 16) : (s.withCursors x).link = s.link := rfl
@[simp] theorem State.withCursors_starting (x : Table Cursor 16) : (s.withCursors x).starting = s.starting := rfl
@[simp] theorem State.withCursors_resetPending (x : Table Cursor 16) : (s.withCursors x).resetPending = s.resetPending := rfl
@[simp] theorem State.withCursors_store (x : Table Cursor 16) : (s.withCursors x).store = s.store := rfl
@[simp] theorem State.withCursors_index (x : Table Cursor 16) : (s.withCursors x).index = s.index := rfl
@[simp] theorem State.withCursors_resolution (x : Table Cursor 16) : (s.withCursors x).resolution = s.resolution := rfl
@[simp] theorem State.withCursors_cursors (x : Table Cursor 16) : (s.withCursors x).cursors = x := rfl
@[simp] theorem State.withCursors_volumes (x : Table Cursor 16) : (s.withCursors x).volumes = s.volumes := rfl
@[simp] theorem State.withCursors_engine (x : Table Cursor 16) : (s.withCursors x).engine = s.engine := rfl
@[simp] theorem State.withCursors_queue (x : Table Cursor 16) : (s.withCursors x).queue = s.queue := rfl
@[simp] theorem State.withCursors_notices (x : Table Cursor 16) : (s.withCursors x).notices = s.notices := rfl
@[simp] theorem State.withCursors_settings (x : Table Cursor 16) : (s.withCursors x).settings = s.settings := rfl
@[simp] theorem State.withCursors_milliseconds (x : Table Cursor 16) : (s.withCursors x).milliseconds = s.milliseconds := rfl
@[simp] theorem State.withCursors_openValues (x : Table Cursor 16) : (s.withCursors x).openValues = s.openValues := rfl
theorem State.withCursors_self : s.withCursors s.cursors = s := rfl

/-! ### withVolumes -/

@[simp] theorem State.withVolumes_pending (x : Table Volume 64) : (s.withVolumes x).pending = s.pending := rfl
@[simp] theorem State.withVolumes_pins (x : Table Volume 64) : (s.withVolumes x).pins = s.pins := rfl
@[simp] theorem State.withVolumes_link (x : Table Volume 64) : (s.withVolumes x).link = s.link := rfl
@[simp] theorem State.withVolumes_starting (x : Table Volume 64) : (s.withVolumes x).starting = s.starting := rfl
@[simp] theorem State.withVolumes_resetPending (x : Table Volume 64) : (s.withVolumes x).resetPending = s.resetPending := rfl
@[simp] theorem State.withVolumes_store (x : Table Volume 64) : (s.withVolumes x).store = s.store := rfl
@[simp] theorem State.withVolumes_index (x : Table Volume 64) : (s.withVolumes x).index = s.index := rfl
@[simp] theorem State.withVolumes_resolution (x : Table Volume 64) : (s.withVolumes x).resolution = s.resolution := rfl
@[simp] theorem State.withVolumes_cursors (x : Table Volume 64) : (s.withVolumes x).cursors = s.cursors := rfl
@[simp] theorem State.withVolumes_volumes (x : Table Volume 64) : (s.withVolumes x).volumes = x := rfl
@[simp] theorem State.withVolumes_engine (x : Table Volume 64) : (s.withVolumes x).engine = s.engine := rfl
@[simp] theorem State.withVolumes_queue (x : Table Volume 64) : (s.withVolumes x).queue = s.queue := rfl
@[simp] theorem State.withVolumes_notices (x : Table Volume 64) : (s.withVolumes x).notices = s.notices := rfl
@[simp] theorem State.withVolumes_settings (x : Table Volume 64) : (s.withVolumes x).settings = s.settings := rfl
@[simp] theorem State.withVolumes_milliseconds (x : Table Volume 64) : (s.withVolumes x).milliseconds = s.milliseconds := rfl
@[simp] theorem State.withVolumes_openValues (x : Table Volume 64) : (s.withVolumes x).openValues = s.openValues := rfl
theorem State.withVolumes_self : s.withVolumes s.volumes = s := rfl

/-! ### withEngine -/

@[simp] theorem State.withEngine_pending (x : Engine) : (s.withEngine x).pending = s.pending := rfl
@[simp] theorem State.withEngine_pins (x : Engine) : (s.withEngine x).pins = s.pins := rfl
@[simp] theorem State.withEngine_link (x : Engine) : (s.withEngine x).link = s.link := rfl
@[simp] theorem State.withEngine_starting (x : Engine) : (s.withEngine x).starting = s.starting := rfl
@[simp] theorem State.withEngine_resetPending (x : Engine) : (s.withEngine x).resetPending = s.resetPending := rfl
@[simp] theorem State.withEngine_store (x : Engine) : (s.withEngine x).store = s.store := rfl
@[simp] theorem State.withEngine_index (x : Engine) : (s.withEngine x).index = s.index := rfl
@[simp] theorem State.withEngine_resolution (x : Engine) : (s.withEngine x).resolution = s.resolution := rfl
@[simp] theorem State.withEngine_cursors (x : Engine) : (s.withEngine x).cursors = s.cursors := rfl
@[simp] theorem State.withEngine_volumes (x : Engine) : (s.withEngine x).volumes = s.volumes := rfl
@[simp] theorem State.withEngine_engine (x : Engine) : (s.withEngine x).engine = x := rfl
@[simp] theorem State.withEngine_queue (x : Engine) : (s.withEngine x).queue = s.queue := rfl
@[simp] theorem State.withEngine_notices (x : Engine) : (s.withEngine x).notices = s.notices := rfl
@[simp] theorem State.withEngine_settings (x : Engine) : (s.withEngine x).settings = s.settings := rfl
@[simp] theorem State.withEngine_milliseconds (x : Engine) : (s.withEngine x).milliseconds = s.milliseconds := rfl
@[simp] theorem State.withEngine_openValues (x : Engine) : (s.withEngine x).openValues = s.openValues := rfl
theorem State.withEngine_self : s.withEngine s.engine = s := rfl

/-! ### withQueue -/

@[simp] theorem State.withQueue_pending (x : List Entry) : (s.withQueue x).pending = s.pending := rfl
@[simp] theorem State.withQueue_pins (x : List Entry) : (s.withQueue x).pins = s.pins := rfl
@[simp] theorem State.withQueue_link (x : List Entry) : (s.withQueue x).link = s.link := rfl
@[simp] theorem State.withQueue_starting (x : List Entry) : (s.withQueue x).starting = s.starting := rfl
@[simp] theorem State.withQueue_resetPending (x : List Entry) : (s.withQueue x).resetPending = s.resetPending := rfl
@[simp] theorem State.withQueue_store (x : List Entry) : (s.withQueue x).store = s.store := rfl
@[simp] theorem State.withQueue_index (x : List Entry) : (s.withQueue x).index = s.index := rfl
@[simp] theorem State.withQueue_resolution (x : List Entry) : (s.withQueue x).resolution = s.resolution := rfl
@[simp] theorem State.withQueue_cursors (x : List Entry) : (s.withQueue x).cursors = s.cursors := rfl
@[simp] theorem State.withQueue_volumes (x : List Entry) : (s.withQueue x).volumes = s.volumes := rfl
@[simp] theorem State.withQueue_engine (x : List Entry) : (s.withQueue x).engine = s.engine := rfl
@[simp] theorem State.withQueue_queue (x : List Entry) : (s.withQueue x).queue = x := rfl
@[simp] theorem State.withQueue_notices (x : List Entry) : (s.withQueue x).notices = s.notices := rfl
@[simp] theorem State.withQueue_settings (x : List Entry) : (s.withQueue x).settings = s.settings := rfl
@[simp] theorem State.withQueue_milliseconds (x : List Entry) : (s.withQueue x).milliseconds = s.milliseconds := rfl
@[simp] theorem State.withQueue_openValues (x : List Entry) : (s.withQueue x).openValues = s.openValues := rfl
theorem State.withQueue_self : s.withQueue s.queue = s := rfl

/-! ### withNotices -/

@[simp] theorem State.withNotices_pending (x : Notices) : (s.withNotices x).pending = s.pending := rfl
@[simp] theorem State.withNotices_pins (x : Notices) : (s.withNotices x).pins = s.pins := rfl
@[simp] theorem State.withNotices_link (x : Notices) : (s.withNotices x).link = s.link := rfl
@[simp] theorem State.withNotices_starting (x : Notices) : (s.withNotices x).starting = s.starting := rfl
@[simp] theorem State.withNotices_resetPending (x : Notices) : (s.withNotices x).resetPending = s.resetPending := rfl
@[simp] theorem State.withNotices_store (x : Notices) : (s.withNotices x).store = s.store := rfl
@[simp] theorem State.withNotices_index (x : Notices) : (s.withNotices x).index = s.index := rfl
@[simp] theorem State.withNotices_resolution (x : Notices) : (s.withNotices x).resolution = s.resolution := rfl
@[simp] theorem State.withNotices_cursors (x : Notices) : (s.withNotices x).cursors = s.cursors := rfl
@[simp] theorem State.withNotices_volumes (x : Notices) : (s.withNotices x).volumes = s.volumes := rfl
@[simp] theorem State.withNotices_engine (x : Notices) : (s.withNotices x).engine = s.engine := rfl
@[simp] theorem State.withNotices_queue (x : Notices) : (s.withNotices x).queue = s.queue := rfl
@[simp] theorem State.withNotices_notices (x : Notices) : (s.withNotices x).notices = x := rfl
@[simp] theorem State.withNotices_settings (x : Notices) : (s.withNotices x).settings = s.settings := rfl
@[simp] theorem State.withNotices_milliseconds (x : Notices) : (s.withNotices x).milliseconds = s.milliseconds := rfl
@[simp] theorem State.withNotices_openValues (x : Notices) : (s.withNotices x).openValues = s.openValues := rfl
theorem State.withNotices_self : s.withNotices s.notices = s := rfl

/-! ### withSettings -/

@[simp] theorem State.withSettings_pending (x : Settings) : (s.withSettings x).pending = s.pending := rfl
@[simp] theorem State.withSettings_pins (x : Settings) : (s.withSettings x).pins = s.pins := rfl
@[simp] theorem State.withSettings_link (x : Settings) : (s.withSettings x).link = s.link := rfl
@[simp] theorem State.withSettings_starting (x : Settings) : (s.withSettings x).starting = s.starting := rfl
@[simp] theorem State.withSettings_resetPending (x : Settings) : (s.withSettings x).resetPending = s.resetPending := rfl
@[simp] theorem State.withSettings_store (x : Settings) : (s.withSettings x).store = s.store := rfl
@[simp] theorem State.withSettings_index (x : Settings) : (s.withSettings x).index = s.index := rfl
@[simp] theorem State.withSettings_resolution (x : Settings) : (s.withSettings x).resolution = s.resolution := rfl
@[simp] theorem State.withSettings_cursors (x : Settings) : (s.withSettings x).cursors = s.cursors := rfl
@[simp] theorem State.withSettings_volumes (x : Settings) : (s.withSettings x).volumes = s.volumes := rfl
@[simp] theorem State.withSettings_engine (x : Settings) : (s.withSettings x).engine = s.engine := rfl
@[simp] theorem State.withSettings_queue (x : Settings) : (s.withSettings x).queue = s.queue := rfl
@[simp] theorem State.withSettings_notices (x : Settings) : (s.withSettings x).notices = s.notices := rfl
@[simp] theorem State.withSettings_settings (x : Settings) : (s.withSettings x).settings = x := rfl
@[simp] theorem State.withSettings_milliseconds (x : Settings) : (s.withSettings x).milliseconds = s.milliseconds := rfl
@[simp] theorem State.withSettings_openValues (x : Settings) : (s.withSettings x).openValues = s.openValues := rfl
theorem State.withSettings_self : s.withSettings s.settings = s := rfl

/-! ### withMilliseconds -/

@[simp] theorem State.withMilliseconds_pending (x : Nat) : (s.withMilliseconds x).pending = s.pending := rfl
@[simp] theorem State.withMilliseconds_pins (x : Nat) : (s.withMilliseconds x).pins = s.pins := rfl
@[simp] theorem State.withMilliseconds_link (x : Nat) : (s.withMilliseconds x).link = s.link := rfl
@[simp] theorem State.withMilliseconds_starting (x : Nat) : (s.withMilliseconds x).starting = s.starting := rfl
@[simp] theorem State.withMilliseconds_resetPending (x : Nat) : (s.withMilliseconds x).resetPending = s.resetPending := rfl
@[simp] theorem State.withMilliseconds_store (x : Nat) : (s.withMilliseconds x).store = s.store := rfl
@[simp] theorem State.withMilliseconds_index (x : Nat) : (s.withMilliseconds x).index = s.index := rfl
@[simp] theorem State.withMilliseconds_resolution (x : Nat) : (s.withMilliseconds x).resolution = s.resolution := rfl
@[simp] theorem State.withMilliseconds_cursors (x : Nat) : (s.withMilliseconds x).cursors = s.cursors := rfl
@[simp] theorem State.withMilliseconds_volumes (x : Nat) : (s.withMilliseconds x).volumes = s.volumes := rfl
@[simp] theorem State.withMilliseconds_engine (x : Nat) : (s.withMilliseconds x).engine = s.engine := rfl
@[simp] theorem State.withMilliseconds_queue (x : Nat) : (s.withMilliseconds x).queue = s.queue := rfl
@[simp] theorem State.withMilliseconds_notices (x : Nat) : (s.withMilliseconds x).notices = s.notices := rfl
@[simp] theorem State.withMilliseconds_settings (x : Nat) : (s.withMilliseconds x).settings = s.settings := rfl
@[simp] theorem State.withMilliseconds_milliseconds (x : Nat) : (s.withMilliseconds x).milliseconds = x := rfl
@[simp] theorem State.withMilliseconds_openValues (x : Nat) : (s.withMilliseconds x).openValues = s.openValues := rfl
theorem State.withMilliseconds_self : s.withMilliseconds s.milliseconds = s := rfl

/-! ### withOpenValues -/

@[simp] theorem State.withOpenValues_pending (x : Nat) : (s.withOpenValues x).pending = s.pending := rfl
@[simp] theorem State.withOpenValues_pins (x : Nat) : (s.withOpenValues x).pins = s.pins := rfl
@[simp] theorem State.withOpenValues_link (x : Nat) : (s.withOpenValues x).link = s.link := rfl
@[simp] theorem State.withOpenValues_starting (x : Nat) : (s.withOpenValues x).starting = s.starting := rfl
@[simp] theorem State.withOpenValues_resetPending (x : Nat) : (s.withOpenValues x).resetPending = s.resetPending := rfl
@[simp] theorem State.withOpenValues_store (x : Nat) : (s.withOpenValues x).store = s.store := rfl
@[simp] theorem State.withOpenValues_index (x : Nat) : (s.withOpenValues x).index = s.index := rfl
@[simp] theorem State.withOpenValues_resolution (x : Nat) : (s.withOpenValues x).resolution = s.resolution := rfl
@[simp] theorem State.withOpenValues_cursors (x : Nat) : (s.withOpenValues x).cursors = s.cursors := rfl
@[simp] theorem State.withOpenValues_volumes (x : Nat) : (s.withOpenValues x).volumes = s.volumes := rfl
@[simp] theorem State.withOpenValues_engine (x : Nat) : (s.withOpenValues x).engine = s.engine := rfl
@[simp] theorem State.withOpenValues_queue (x : Nat) : (s.withOpenValues x).queue = s.queue := rfl
@[simp] theorem State.withOpenValues_notices (x : Nat) : (s.withOpenValues x).notices = s.notices := rfl
@[simp] theorem State.withOpenValues_settings (x : Nat) : (s.withOpenValues x).settings = s.settings := rfl
@[simp] theorem State.withOpenValues_milliseconds (x : Nat) : (s.withOpenValues x).milliseconds = s.milliseconds := rfl
@[simp] theorem State.withOpenValues_openValues (x : Nat) : (s.withOpenValues x).openValues = x := rfl
theorem State.withOpenValues_self : s.withOpenValues s.openValues = s := rfl

/-! ### setCursor -/

@[simp] theorem State.setCursor_pending (n : Fin 16) (c : Cursor) : (s.setCursor n c).pending = s.pending := rfl
@[simp] theorem State.setCursor_pins (n : Fin 16) (c : Cursor) : (s.setCursor n c).pins = s.pins := rfl
@[simp] theorem State.setCursor_link (n : Fin 16) (c : Cursor) : (s.setCursor n c).link = s.link := rfl
@[simp] theorem State.setCursor_starting (n : Fin 16) (c : Cursor) : (s.setCursor n c).starting = s.starting := rfl
@[simp] theorem State.setCursor_resetPending (n : Fin 16) (c : Cursor) : (s.setCursor n c).resetPending = s.resetPending := rfl
@[simp] theorem State.setCursor_store (n : Fin 16) (c : Cursor) : (s.setCursor n c).store = s.store := rfl
@[simp] theorem State.setCursor_index (n : Fin 16) (c : Cursor) : (s.setCursor n c).index = s.index := rfl
@[simp] theorem State.setCursor_resolution (n : Fin 16) (c : Cursor) : (s.setCursor n c).resolution = s.resolution := rfl
@[simp] theorem State.setCursor_volumes (n : Fin 16) (c : Cursor) : (s.setCursor n c).volumes = s.volumes := rfl
@[simp] theorem State.setCursor_engine (n : Fin 16) (c : Cursor) : (s.setCursor n c).engine = s.engine := rfl
@[simp] theorem State.setCursor_queue (n : Fin 16) (c : Cursor) : (s.setCursor n c).queue = s.queue := rfl
@[simp] theorem State.setCursor_notices (n : Fin 16) (c : Cursor) : (s.setCursor n c).notices = s.notices := rfl
@[simp] theorem State.setCursor_settings (n : Fin 16) (c : Cursor) : (s.setCursor n c).settings = s.settings := rfl
@[simp] theorem State.setCursor_milliseconds (n : Fin 16) (c : Cursor) : (s.setCursor n c).milliseconds = s.milliseconds := rfl
@[simp] theorem State.setCursor_openValues (n : Fin 16) (c : Cursor) : (s.setCursor n c).openValues = s.openValues := rfl

@[simp] theorem State.setCursor_cursors (n : Fin 16) (c : Cursor) :
    (s.setCursor n c).cursors = s.cursors.set n c := rfl

/-! ### setVolume -/

@[simp] theorem State.setVolume_pending (v : Fin 64) (e : Volume) : (s.setVolume v e).pending = s.pending := rfl
@[simp] theorem State.setVolume_pins (v : Fin 64) (e : Volume) : (s.setVolume v e).pins = s.pins := rfl
@[simp] theorem State.setVolume_link (v : Fin 64) (e : Volume) : (s.setVolume v e).link = s.link := rfl
@[simp] theorem State.setVolume_starting (v : Fin 64) (e : Volume) : (s.setVolume v e).starting = s.starting := rfl
@[simp] theorem State.setVolume_resetPending (v : Fin 64) (e : Volume) : (s.setVolume v e).resetPending = s.resetPending := rfl
@[simp] theorem State.setVolume_store (v : Fin 64) (e : Volume) : (s.setVolume v e).store = s.store := rfl
@[simp] theorem State.setVolume_index (v : Fin 64) (e : Volume) : (s.setVolume v e).index = s.index := rfl
@[simp] theorem State.setVolume_resolution (v : Fin 64) (e : Volume) : (s.setVolume v e).resolution = s.resolution := rfl
@[simp] theorem State.setVolume_cursors (v : Fin 64) (e : Volume) : (s.setVolume v e).cursors = s.cursors := rfl
@[simp] theorem State.setVolume_engine (v : Fin 64) (e : Volume) : (s.setVolume v e).engine = s.engine := rfl
@[simp] theorem State.setVolume_queue (v : Fin 64) (e : Volume) : (s.setVolume v e).queue = s.queue := rfl
@[simp] theorem State.setVolume_notices (v : Fin 64) (e : Volume) : (s.setVolume v e).notices = s.notices := rfl
@[simp] theorem State.setVolume_settings (v : Fin 64) (e : Volume) : (s.setVolume v e).settings = s.settings := rfl
@[simp] theorem State.setVolume_milliseconds (v : Fin 64) (e : Volume) : (s.setVolume v e).milliseconds = s.milliseconds := rfl
@[simp] theorem State.setVolume_openValues (v : Fin 64) (e : Volume) : (s.setVolume v e).openValues = s.openValues := rfl

@[simp] theorem State.setVolume_volumes (v : Fin 64) (e : Volume) :
    (s.setVolume v e).volumes = s.volumes.set v e := rfl

/-! ### raise -/

@[simp] theorem State.raise_pending (x : Notice) : (s.raise x).pending = s.pending := rfl
@[simp] theorem State.raise_pins (x : Notice) : (s.raise x).pins = s.pins := rfl
@[simp] theorem State.raise_link (x : Notice) : (s.raise x).link = s.link := rfl
@[simp] theorem State.raise_starting (x : Notice) : (s.raise x).starting = s.starting := rfl
@[simp] theorem State.raise_resetPending (x : Notice) : (s.raise x).resetPending = s.resetPending := rfl
@[simp] theorem State.raise_store (x : Notice) : (s.raise x).store = s.store := rfl
@[simp] theorem State.raise_index (x : Notice) : (s.raise x).index = s.index := rfl
@[simp] theorem State.raise_resolution (x : Notice) : (s.raise x).resolution = s.resolution := rfl
@[simp] theorem State.raise_cursors (x : Notice) : (s.raise x).cursors = s.cursors := rfl
@[simp] theorem State.raise_volumes (x : Notice) : (s.raise x).volumes = s.volumes := rfl
@[simp] theorem State.raise_engine (x : Notice) : (s.raise x).engine = s.engine := rfl
@[simp] theorem State.raise_queue (x : Notice) : (s.raise x).queue = s.queue := rfl
@[simp] theorem State.raise_settings (x : Notice) : (s.raise x).settings = s.settings := rfl
@[simp] theorem State.raise_milliseconds (x : Notice) : (s.raise x).milliseconds = s.milliseconds := rfl
@[simp] theorem State.raise_openValues (x : Notice) : (s.raise x).openValues = s.openValues := rfl

@[simp] theorem State.raise_notices (x : Notice) :
    (s.raise x).notices = (s.notices.record x).testLatch s.settings.noticeEnables := rfl

/-! ### testLatch -/

@[simp] theorem State.testLatch_pending  : (s.testLatch).pending = s.pending := rfl
@[simp] theorem State.testLatch_pins  : (s.testLatch).pins = s.pins := rfl
@[simp] theorem State.testLatch_link  : (s.testLatch).link = s.link := rfl
@[simp] theorem State.testLatch_starting  : (s.testLatch).starting = s.starting := rfl
@[simp] theorem State.testLatch_resetPending  : (s.testLatch).resetPending = s.resetPending := rfl
@[simp] theorem State.testLatch_store  : (s.testLatch).store = s.store := rfl
@[simp] theorem State.testLatch_index  : (s.testLatch).index = s.index := rfl
@[simp] theorem State.testLatch_resolution  : (s.testLatch).resolution = s.resolution := rfl
@[simp] theorem State.testLatch_cursors  : (s.testLatch).cursors = s.cursors := rfl
@[simp] theorem State.testLatch_volumes  : (s.testLatch).volumes = s.volumes := rfl
@[simp] theorem State.testLatch_engine  : (s.testLatch).engine = s.engine := rfl
@[simp] theorem State.testLatch_queue  : (s.testLatch).queue = s.queue := rfl
@[simp] theorem State.testLatch_settings  : (s.testLatch).settings = s.settings := rfl
@[simp] theorem State.testLatch_milliseconds  : (s.testLatch).milliseconds = s.milliseconds := rfl
@[simp] theorem State.testLatch_openValues  : (s.testLatch).openValues = s.openValues := rfl

@[simp] theorem State.testLatch_notices :
    s.testLatch.notices = s.notices.testLatch s.settings.noticeEnables := rfl

/-! ### respond -/

@[simp] theorem State.respond_pending (i : Instr) (r : Response) : (s.respond i r).pending = s.pending := rfl
@[simp] theorem State.respond_pins (i : Instr) (r : Response) : (s.respond i r).pins = s.pins := rfl
@[simp] theorem State.respond_starting (i : Instr) (r : Response) : (s.respond i r).starting = s.starting := rfl
@[simp] theorem State.respond_resetPending (i : Instr) (r : Response) : (s.respond i r).resetPending = s.resetPending := rfl
@[simp] theorem State.respond_store (i : Instr) (r : Response) : (s.respond i r).store = s.store := rfl
@[simp] theorem State.respond_index (i : Instr) (r : Response) : (s.respond i r).index = s.index := rfl
@[simp] theorem State.respond_resolution (i : Instr) (r : Response) : (s.respond i r).resolution = s.resolution := rfl
@[simp] theorem State.respond_cursors (i : Instr) (r : Response) : (s.respond i r).cursors = s.cursors := rfl
@[simp] theorem State.respond_volumes (i : Instr) (r : Response) : (s.respond i r).volumes = s.volumes := rfl
@[simp] theorem State.respond_engine (i : Instr) (r : Response) : (s.respond i r).engine = s.engine := rfl
@[simp] theorem State.respond_queue (i : Instr) (r : Response) : (s.respond i r).queue = s.queue := rfl
@[simp] theorem State.respond_notices (i : Instr) (r : Response) : (s.respond i r).notices = s.notices := rfl
@[simp] theorem State.respond_settings (i : Instr) (r : Response) : (s.respond i r).settings = s.settings := rfl
@[simp] theorem State.respond_milliseconds (i : Instr) (r : Response) : (s.respond i r).milliseconds = s.milliseconds := rfl
@[simp] theorem State.respond_openValues (i : Instr) (r : Response) : (s.respond i r).openValues = s.openValues := rfl

@[simp] theorem State.respond_link (i : Instr) (r : Response) : (s.respond i r).link =
    { s.link with frame := some ⟨.turnaround, i.code, i.frameBytes, r.bytes⟩ } := rfl

/-! ### settleCounts -/

@[simp] theorem State.settleCounts_pending  : (s.settleCounts).pending = s.pending := rfl
@[simp] theorem State.settleCounts_pins  : (s.settleCounts).pins = s.pins := rfl
@[simp] theorem State.settleCounts_link  : (s.settleCounts).link = s.link := rfl
@[simp] theorem State.settleCounts_starting  : (s.settleCounts).starting = s.starting := rfl
@[simp] theorem State.settleCounts_resetPending  : (s.settleCounts).resetPending = s.resetPending := rfl
@[simp] theorem State.settleCounts_store  : (s.settleCounts).store = s.store := rfl
@[simp] theorem State.settleCounts_resolution  : (s.settleCounts).resolution = s.resolution := rfl
@[simp] theorem State.settleCounts_cursors  : (s.settleCounts).cursors = s.cursors := rfl
@[simp] theorem State.settleCounts_volumes  : (s.settleCounts).volumes = s.volumes := rfl
@[simp] theorem State.settleCounts_engine  : (s.settleCounts).engine = s.engine := rfl
@[simp] theorem State.settleCounts_notices  : (s.settleCounts).notices = s.notices := rfl
@[simp] theorem State.settleCounts_settings  : (s.settleCounts).settings = s.settings := rfl
@[simp] theorem State.settleCounts_milliseconds  : (s.settleCounts).milliseconds = s.milliseconds := rfl
@[simp] theorem State.settleCounts_openValues  : (s.settleCounts).openValues = s.openValues := rfl

@[simp] theorem State.settleCounts_index : s.settleCounts.index = s.index.counted s.cursors := rfl
@[simp] theorem State.settleCounts_queue : s.settleCounts.queue =
    s.queue.map fun e => e.follow (framesNaming s.cursors e.accession) := rfl

/-! ### startCommit -/

@[simp] theorem State.startCommit_pending (c : Change) (source : Source) : (s.startCommit c source).pending = s.pending := rfl
@[simp] theorem State.startCommit_pins (c : Change) (source : Source) : (s.startCommit c source).pins = s.pins := rfl
@[simp] theorem State.startCommit_link (c : Change) (source : Source) : (s.startCommit c source).link = s.link := rfl
@[simp] theorem State.startCommit_starting (c : Change) (source : Source) : (s.startCommit c source).starting = s.starting := rfl
@[simp] theorem State.startCommit_resetPending (c : Change) (source : Source) : (s.startCommit c source).resetPending = s.resetPending := rfl
@[simp] theorem State.startCommit_store (c : Change) (source : Source) : (s.startCommit c source).store = s.store := rfl
@[simp] theorem State.startCommit_resolution (c : Change) (source : Source) : (s.startCommit c source).resolution = s.resolution := rfl
@[simp] theorem State.startCommit_cursors (c : Change) (source : Source) : (s.startCommit c source).cursors = s.cursors := rfl
@[simp] theorem State.startCommit_volumes (c : Change) (source : Source) : (s.startCommit c source).volumes = s.volumes := rfl
@[simp] theorem State.startCommit_queue (c : Change) (source : Source) : (s.startCommit c source).queue = s.queue := rfl
@[simp] theorem State.startCommit_notices (c : Change) (source : Source) : (s.startCommit c source).notices = s.notices := rfl
@[simp] theorem State.startCommit_settings (c : Change) (source : Source) : (s.startCommit c source).settings = s.settings := rfl
@[simp] theorem State.startCommit_milliseconds (c : Change) (source : Source) : (s.startCommit c source).milliseconds = s.milliseconds := rfl
@[simp] theorem State.startCommit_openValues (c : Change) (source : Source) : (s.startCommit c source).openValues = s.openValues := rfl

/-! ### removeEntry -/

@[simp] theorem State.removeEntry_pending (a : Nat) : (s.removeEntry a).pending = s.pending := rfl
@[simp] theorem State.removeEntry_pins (a : Nat) : (s.removeEntry a).pins = s.pins := rfl
@[simp] theorem State.removeEntry_link (a : Nat) : (s.removeEntry a).link = s.link := rfl
@[simp] theorem State.removeEntry_starting (a : Nat) : (s.removeEntry a).starting = s.starting := rfl
@[simp] theorem State.removeEntry_resetPending (a : Nat) : (s.removeEntry a).resetPending = s.resetPending := rfl
@[simp] theorem State.removeEntry_store (a : Nat) : (s.removeEntry a).store = s.store := rfl
@[simp] theorem State.removeEntry_resolution (a : Nat) : (s.removeEntry a).resolution = s.resolution := rfl
@[simp] theorem State.removeEntry_cursors (a : Nat) : (s.removeEntry a).cursors = s.cursors := rfl
@[simp] theorem State.removeEntry_volumes (a : Nat) : (s.removeEntry a).volumes = s.volumes := rfl
@[simp] theorem State.removeEntry_engine (a : Nat) : (s.removeEntry a).engine = s.engine := rfl
@[simp] theorem State.removeEntry_notices (a : Nat) : (s.removeEntry a).notices = s.notices := rfl
@[simp] theorem State.removeEntry_settings (a : Nat) : (s.removeEntry a).settings = s.settings := rfl
@[simp] theorem State.removeEntry_milliseconds (a : Nat) : (s.removeEntry a).milliseconds = s.milliseconds := rfl
@[simp] theorem State.removeEntry_openValues (a : Nat) : (s.removeEntry a).openValues = s.openValues := rfl

@[simp] theorem State.removeEntry_queue (a : Nat) :
    (s.removeEntry a).queue = s.queue.filter fun e => e.accession ≠ a := rfl
@[simp] theorem State.removeEntry_index (a : Nat) :
    (s.removeEntry a).index = s.index.setPending a false := rfl

/-! ### yieldAll -/

@[simp] theorem State.yieldAll_pending (a : Nat) : (s.yieldAll a).pending = s.pending := rfl
@[simp] theorem State.yieldAll_pins (a : Nat) : (s.yieldAll a).pins = s.pins := rfl
@[simp] theorem State.yieldAll_link (a : Nat) : (s.yieldAll a).link = s.link := rfl
@[simp] theorem State.yieldAll_starting (a : Nat) : (s.yieldAll a).starting = s.starting := rfl
@[simp] theorem State.yieldAll_resetPending (a : Nat) : (s.yieldAll a).resetPending = s.resetPending := rfl
@[simp] theorem State.yieldAll_store (a : Nat) : (s.yieldAll a).store = s.store := rfl
@[simp] theorem State.yieldAll_index (a : Nat) : (s.yieldAll a).index = s.index := rfl
@[simp] theorem State.yieldAll_resolution (a : Nat) : (s.yieldAll a).resolution = s.resolution := rfl
@[simp] theorem State.yieldAll_volumes (a : Nat) : (s.yieldAll a).volumes = s.volumes := rfl
@[simp] theorem State.yieldAll_engine (a : Nat) : (s.yieldAll a).engine = s.engine := rfl
@[simp] theorem State.yieldAll_queue (a : Nat) : (s.yieldAll a).queue = s.queue := rfl
@[simp] theorem State.yieldAll_notices (a : Nat) : (s.yieldAll a).notices = s.notices := rfl
@[simp] theorem State.yieldAll_settings (a : Nat) : (s.yieldAll a).settings = s.settings := rfl
@[simp] theorem State.yieldAll_milliseconds (a : Nat) : (s.yieldAll a).milliseconds = s.milliseconds := rfl
@[simp] theorem State.yieldAll_openValues (a : Nat) : (s.yieldAll a).openValues = s.openValues := rfl

/-! ### noteCondition -/

/-- The condition note is a resolution update, whatever the form. -/
theorem State.noteCondition_eq (form : Byte) (c : Condition) (f : Sticky) :
    s.noteCondition form c f =
      s.withResolution (if reportForm form then s.resolution.note c f else s.resolution) := by
  unfold State.noteCondition
  split <;> rfl

@[simp] theorem State.noteCondition_pending (form : Byte) (c : Condition) (f : Sticky) :
    (s.noteCondition form c f).pending = s.pending := by rw [State.noteCondition_eq]; rfl
@[simp] theorem State.noteCondition_pins (form : Byte) (c : Condition) (f : Sticky) :
    (s.noteCondition form c f).pins = s.pins := by rw [State.noteCondition_eq]; rfl
@[simp] theorem State.noteCondition_link (form : Byte) (c : Condition) (f : Sticky) :
    (s.noteCondition form c f).link = s.link := by rw [State.noteCondition_eq]; rfl
@[simp] theorem State.noteCondition_starting (form : Byte) (c : Condition) (f : Sticky) :
    (s.noteCondition form c f).starting = s.starting := by rw [State.noteCondition_eq]; rfl
@[simp] theorem State.noteCondition_resetPending (form : Byte) (c : Condition) (f : Sticky) :
    (s.noteCondition form c f).resetPending = s.resetPending := by rw [State.noteCondition_eq]; rfl
@[simp] theorem State.noteCondition_store (form : Byte) (c : Condition) (f : Sticky) :
    (s.noteCondition form c f).store = s.store := by rw [State.noteCondition_eq]; rfl
@[simp] theorem State.noteCondition_index (form : Byte) (c : Condition) (f : Sticky) :
    (s.noteCondition form c f).index = s.index := by rw [State.noteCondition_eq]; rfl
@[simp] theorem State.noteCondition_cursors (form : Byte) (c : Condition) (f : Sticky) :
    (s.noteCondition form c f).cursors = s.cursors := by rw [State.noteCondition_eq]; rfl
@[simp] theorem State.noteCondition_volumes (form : Byte) (c : Condition) (f : Sticky) :
    (s.noteCondition form c f).volumes = s.volumes := by rw [State.noteCondition_eq]; rfl
@[simp] theorem State.noteCondition_engine (form : Byte) (c : Condition) (f : Sticky) :
    (s.noteCondition form c f).engine = s.engine := by rw [State.noteCondition_eq]; rfl
@[simp] theorem State.noteCondition_queue (form : Byte) (c : Condition) (f : Sticky) :
    (s.noteCondition form c f).queue = s.queue := by rw [State.noteCondition_eq]; rfl
@[simp] theorem State.noteCondition_notices (form : Byte) (c : Condition) (f : Sticky) :
    (s.noteCondition form c f).notices = s.notices := by rw [State.noteCondition_eq]; rfl
@[simp] theorem State.noteCondition_settings (form : Byte) (c : Condition) (f : Sticky) :
    (s.noteCondition form c f).settings = s.settings := by rw [State.noteCondition_eq]; rfl
@[simp] theorem State.noteCondition_milliseconds (form : Byte) (c : Condition) (f : Sticky) :
    (s.noteCondition form c f).milliseconds = s.milliseconds := by rw [State.noteCondition_eq]; rfl
@[simp] theorem State.noteCondition_openValues (form : Byte) (c : Condition) (f : Sticky) :
    (s.noteCondition form c f).openValues = s.openValues := by rw [State.noteCondition_eq]; rfl

end Sys2Proof.Machine
end

