-- ==== Sys2Proof/Laws/Link.lean ====
section
/-! SUPPORT. What a host command does: nothing with no frame in phase CODE, the readiness answer where
that check fails, and the block's effect and answer otherwise. -/

namespace Sys2Proof.Machine

variable {i : Instr} {s : State} {readiness : State → Option Response}
  {effect : State → State × Response}

@[simp] theorem linkCommand_closed (h : s.takesCommand = false) :
    linkCommand i readiness effect s = s := by
  simp [linkCommand, h]

theorem linkCommand_refused {r : Response} (h : s.takesCommand = true) (hr : readiness s = some r) :
    linkCommand i readiness effect s = s.respond i r := by
  simp [linkCommand, h, hr]

theorem linkCommand_taken (h : s.takesCommand = true) (hr : readiness s = none) :
    linkCommand i readiness effect s = (effect s).1.respond i (effect s).2 := by
  simp [linkCommand, h, hr]

/-- Everything a host command can do. -/
theorem linkCommand_cases (i : Instr) (readiness : State → Option Response)
    (effect : State → State × Response) (s : State) :
    (s.takesCommand = false ∧ linkCommand i readiness effect s = s) ∨
    (s.takesCommand = true ∧ ∃ r, readiness s = some r ∧
      linkCommand i readiness effect s = s.respond i r) ∨
    (s.takesCommand = true ∧ readiness s = none ∧
      linkCommand i readiness effect s = (effect s).1.respond i (effect s).2) := by
  cases h : s.takesCommand
  · exact .inl ⟨rfl, linkCommand_closed h⟩
  · cases hr : readiness s
    · exact .inr (.inr ⟨rfl, rfl, linkCommand_taken h hr⟩)
    · exact .inr (.inl ⟨rfl, _, rfl, linkCommand_refused h hr⟩)

theorem notReadyAnswer_eq_none : notReadyAnswer s = none ↔ s.starting = false ∧ s.resetPending = false := by
  cases hs : s.starting <;> cases hr : s.resetPending <;> simp [notReadyAnswer, hs, hr]

theorem notReadyAnswer_of_not_ready (h : s.starting = true ∨ s.resetPending = true) :
    notReadyAnswer s = some ⟨.notReady, []⟩ := by
  rcases h with h | h <;> simp [notReadyAnswer, h, Response.bare]

/-- A host command that its block is handed. -/
@[simp] theorem hostCommand_ready (h : s.ready) :
    hostCommand i effect s = (effect s).1.respond i (effect s).2 :=
  linkCommand_taken h.1 (notReadyAnswer_eq_none.2 h.2)

/-- A host command turned away by the readiness check (R188). -/
theorem hostCommand_not_ready (h : s.takesCommand = true)
    (hr : s.starting = true ∨ s.resetPending = true) :
    hostCommand i effect s = s.respond i ⟨.notReady, []⟩ :=
  linkCommand_refused h (notReadyAnswer_of_not_ready hr)

@[simp] theorem hostCommand_closed (h : s.takesCommand = false) : hostCommand i effect s = s :=
  linkCommand_closed h

/-- Everything a host command with the readiness check of R188 can do. -/
theorem hostCommand_cases (i : Instr) (effect : State → State × Response) (s : State) :
    (s.takesCommand = false ∧ hostCommand i effect s = s) ∨
    (s.takesCommand = true ∧ (s.starting = true ∨ s.resetPending = true) ∧
      hostCommand i effect s = s.respond i ⟨.notReady, []⟩) ∨
    (s.ready ∧ hostCommand i effect s = (effect s).1.respond i (effect s).2) := by
  cases h : s.takesCommand
  · exact .inl ⟨rfl, hostCommand_closed h⟩
  · by_cases hr : s.starting = true ∨ s.resetPending = true
    · exact .inr (.inl ⟨rfl, hr, hostCommand_not_ready h hr⟩)
    · have hr : s.ready := ⟨h, by simp_all⟩
      exact .inr (.inr ⟨hr, hostCommand_ready hr⟩)

@[simp] theorem hostQuery_ready {answer : State → Response} (h : s.ready) :
    hostQuery i answer s = s.respond i (answer s) :=
  hostCommand_ready h

/-- A property that the block's effect and the frame's answer both keep is kept by the command. -/
theorem hostCommand_keeps {P : State → Prop} (hp : P s) (hr : ∀ t r, P t → P (t.respond i r))
    (he : s.ready → P (effect s).1) : P (hostCommand i effect s) := by
  rcases hostCommand_cases i effect s with ⟨-, h⟩ | ⟨-, -, h⟩ | ⟨hs, h⟩ <;> rw [h]
  · exact hp
  · exact hr _ _ hp
  · exact hr _ _ (he hs)

/-- A response fixed in the frame is what `hasAnswered` says. -/
@[simp] theorem respond_hasAnswered (s : State) (i : Instr) (r : Response) :
    (s.respond i r).hasAnswered i r := rfl


end Sys2Proof.Machine
end

