-- ==== Sys2Proof/Laws/Notices.lean ====
section
/-! SUPPORT. What a raise leaves pending, and how the line latch settles. -/

namespace Sys2Proof.Machine

/-- Once tested, the latch is not LOW with ARMED set and an enabled kind pending (R197). -/
theorem Notices.testLatch_settled (n : Notices) (enables : BitVec 10) :
    ¬((n.testLatch enables).latched = false ∧ (n.testLatch enables).armed = true ∧
      (n.testLatch enables).enabledPending enables = true) := by
  unfold Notices.testLatch
  split
  · simp
  · simp_all

theorem Notices.testLatch_of_latched {n : Notices} (enables : BitVec 10) (h : n.latched = true) :
    n.testLatch enables = n := by
  simp [Notices.testLatch, h]

theorem Notices.testLatch_of_disarmed {n : Notices} (enables : BitVec 10) (h : n.armed = false) :
    n.testLatch enables = n := by
  simp [Notices.testLatch, h]

/-- The latch test touches the latch and ARMED alone. -/
theorem Notices.testLatch_eq (n : Notices) (enables : BitVec 10) :
    n.testLatch enables = { n with
      latched := (n.testLatch enables).latched, armed := (n.testLatch enables).armed } := by
  unfold Notices.testLatch
  split <;> rfl

section
variable (n : Notices) (enables : BitVec 10)
@[simp] theorem Notices.testLatch_commitDone : (n.testLatch enables).commitDone = n.commitDone := by
  rw [n.testLatch_eq]
@[simp] theorem Notices.testLatch_commitFailed : (n.testLatch enables).commitFailed = n.commitFailed := by
  rw [n.testLatch_eq]
@[simp] theorem Notices.testLatch_changeStage : (n.testLatch enables).changeStage = n.changeStage := by
  rw [n.testLatch_eq]
@[simp] theorem Notices.testLatch_started : (n.testLatch enables).started = n.started := by
  rw [n.testLatch_eq]
@[simp] theorem Notices.testLatch_cursorStalled :
    (n.testLatch enables).cursorStalled = n.cursorStalled := by rw [n.testLatch_eq]
@[simp] theorem Notices.testLatch_cursorDetached :
    (n.testLatch enables).cursorDetached = n.cursorDetached := by rw [n.testLatch_eq]
@[simp] theorem Notices.testLatch_cursorFaulted :
    (n.testLatch enables).cursorFaulted = n.cursorFaulted := by rw [n.testLatch_eq]
@[simp] theorem Notices.testLatch_volumeFailed :
    (n.testLatch enables).volumeFailed = n.volumeFailed := by rw [n.testLatch_eq]
@[simp] theorem Notices.testLatch_volumeProbeRequest :
    (n.testLatch enables).volumeProbeRequest = n.volumeProbeRequest := by rw [n.testLatch_eq]
@[simp] theorem Notices.testLatch_volumeReturned :
    (n.testLatch enables).volumeReturned = n.volumeReturned := by rw [n.testLatch_eq]
@[simp] theorem Notices.testLatch_isPending (k : NoticeKind) :
    (n.testLatch enables).isPending k = n.isPending k := by
  rw [n.testLatch_eq]; cases k <;> rfl
@[simp] theorem Notices.record_armed (x : Notice) : (n.record x).armed = n.armed := by cases x <;> rfl
@[simp] theorem Notices.record_latched (x : Notice) : (n.record x).latched = n.latched := by
  cases x <;> rfl
end

/-- A raise sets the bit of the cursor it concerns and leaves the others (R195). -/
@[simp] theorem getLsbD_or_twoPow (w : Nat) (x : BitVec w) (k m : Nat) (h : m < w) :
    (x ||| BitVec.twoPow w k).getLsbD m = (x.getLsbD m || decide (m = k)) := by
  simp [h, eq_comm]

/-- Whether an enabled kind is pending depends on the pending kinds alone. -/
theorem Notices.enabledPending_congr {n m : Notices} (enables : BitVec 10)
    (h : ∀ k, n.isPending k = m.isPending k) : n.enabledPending enables = m.enabledPending enables := by
  simp [Notices.enabledPending, h]

/-- The pending kinds as a mask show each kind at its bit (R210). -/
theorem Notices.getLsbD_kinds (n : Notices) (k : NoticeKind) :
    n.kinds.getLsbD k.bit = n.isPending k := by
  have key : ∀ (l : List NoticeKind) (acc : BitVec 10),
      (l.foldl (fun acc k => if n.isPending k then acc ||| BitVec.twoPow 10 k.bit else acc)
        acc).getLsbD k.bit = (acc.getLsbD k.bit || l.any fun j => n.isPending j && j.bit == k.bit) := by
    intro l
    induction l with
    | nil => simp
    | cons j rest ih =>
      intro acc
      have hk : k.bit < 10 := by cases k <;> decide
      rw [List.foldl_cons, ih]
      cases hj : n.isPending j <;> simp [hj, hk, Bool.or_assoc]
      rw [beq_eq_decide, decide_eq_decide.2 (eq_comm (a := k.bit))]
  rw [Notices.kinds, key]
  cases k <;> simp [NoticeKind.all, NoticeKind.bit]

end Sys2Proof.Machine
end

