-- ==== Sys2Proof/Laws/Records.lean ====
section
/-! SUPPORT. The catalogue as a list of records: what is found at an accession after a change, the order
of the two indexes, and how many slots and segments the records hold. -/

namespace Sys2Proof.Machine

/-! ### Finding records -/

theorem findRecord_accession {records : List ItemRecord} {a : Nat} {r : ItemRecord}
    (h : findRecord records a = some r) : r.accession = a := by
  simpa using List.find?_some h

theorem findRecord_mem {records : List ItemRecord} {a : Nat} {r : ItemRecord}
    (h : findRecord records a = some r) : r ∈ records :=
  List.mem_of_find?_eq_some h

theorem findRecord_eq_none {records : List ItemRecord} {a : Nat} :
    findRecord records a = none ↔ ∀ r ∈ records, r.accession ≠ a := by
  simp [findRecord]

theorem findRecord_isSome {records : List ItemRecord} {a : Nat} :
    (findRecord records a).isSome = true ↔ ∃ r ∈ records, r.accession = a := by
  simp [findRecord]

/-- In a catalogue in ascending accession, every record is the one found at its accession. -/
theorem findRecord_of_mem {records : List ItemRecord}
    (h : records.Pairwise (fun a b => a.accession < b.accession)) {r : ItemRecord} (hr : r ∈ records) :
    findRecord records r.accession = some r := by
  induction records with
  | nil => simp at hr
  | cons x rest ih =>
    rcases List.mem_cons.1 hr with rfl | hr'
    · simp [findRecord]
    · have := List.rel_of_pairwise_cons h hr'
      rw [findRecord, List.find?_cons_of_neg (by simp; omega)]
      exact ih (List.Pairwise.of_cons h) hr'

/-! ### One record rewritten -/

theorem modifyRecord_accessions {a : Nat} {f : ItemRecord → ItemRecord}
    (hf : ∀ r, r.accession = a → (f r).accession = a) (records : List ItemRecord) :
    (modifyRecord a f records).map (·.accession) = records.map (·.accession) := by
  simp only [modifyRecord, List.map_map]
  apply List.map_congr_left
  intro r _
  by_cases h : r.accession = a <;> simp [h, hf]

@[simp] theorem length_modifyRecord (a : Nat) (f : ItemRecord → ItemRecord)
    (records : List ItemRecord) : (modifyRecord a f records).length = records.length := by
  simp [modifyRecord]

/-- What is found after one record is rewritten. -/
theorem findRecord_modifyRecord {a : Nat} {f : ItemRecord → ItemRecord}
    (hf : ∀ r, r.accession = a → (f r).accession = a) (records : List ItemRecord) (b : Nat) :
    findRecord (modifyRecord a f records) b =
      if b = a then (findRecord records a).map f else findRecord records b := by
  induction records with
  | nil => simp [findRecord, modifyRecord]
  | cons r rest ih =>
    by_cases hr : r.accession = a
    · by_cases hb : b = a
      · simp [findRecord, modifyRecord, hr, hf r hr, hb]
      · simp only [hb, if_false] at ih ⊢
        rw [modifyRecord, List.map_cons, if_pos hr, findRecord,
          List.find?_cons_of_neg (by simp [hf r hr, Ne.symm hb]), findRecord,
          List.find?_cons_of_neg (by simp [hr, Ne.symm hb])]
        exact ih
    · by_cases hrb : r.accession = b
      · have hb : b ≠ a := by omega
        simp [findRecord, modifyRecord, hrb, hb]
      · have key : findRecord (modifyRecord a f (r :: rest)) b = findRecord (modifyRecord a f rest) b := by
          simp [findRecord, modifyRecord, hr, hrb]
        rw [key, ih]
        by_cases hb : b = a
        · simp [hb, findRecord, hr]
        · simp [hb, findRecord, hrb]

/-- The segments owned before, less those of the rewritten record, are those owned after, less those it
then holds. -/
theorem segmentsOwned_modifyRecord {a : Nat} {f : ItemRecord → ItemRecord} {records : List ItemRecord}
    (h : records.Pairwise (fun a b => a.accession < b.accession)) {r : ItemRecord}
    (hr : findRecord records a = some r) :
    segmentsOwned (modifyRecord a f records) + r.segments.length =
      segmentsOwned records + (f r).segments.length := by
  induction records with
  | nil => simp [findRecord] at hr
  | cons x rest ih =>
    by_cases hx : x.accession = a
    · have e : x = r := by simpa [findRecord, hx] using hr
      subst e
      have same : modifyRecord a f rest = rest := by
        rw [modifyRecord, List.map_congr_left (g := id), List.map_id]
        intro y hy
        have := List.rel_of_pairwise_cons h hy
        rw [if_neg (by omega), id]
      have : modifyRecord a f (x :: rest) = f x :: rest := by
        conv_rhs => rw [← same]
        simp [modifyRecord, hx]
      simp [this, segmentsOwned]; omega
    · have hr' : findRecord rest a = some r := by simpa [findRecord, hx] using hr
      have := ih (List.Pairwise.of_cons h) hr'
      simp [segmentsOwned, modifyRecord, hx] at this ⊢; omega

/-! ### A record put in its place -/

theorem mem_insertRecord {r x : ItemRecord} {records : List ItemRecord} :
    x ∈ insertRecord r records ↔ x = r ∨ x ∈ records := by
  induction records with
  | nil => simp [insertRecord]
  | cons y rest ih =>
    by_cases h : r.accession < y.accession
    · simp [insertRecord, h]
    · simp only [insertRecord, h, if_false, List.mem_cons, ih]
      tauto

@[simp] theorem length_insertRecord (r : ItemRecord) (records : List ItemRecord) :
    (insertRecord r records).length = records.length + 1 := by
  induction records with
  | nil => rfl
  | cons y rest ih =>
    by_cases h : r.accession < y.accession <;> simp [insertRecord, h, ih]

@[simp] theorem segmentsOwned_insertRecord (r : ItemRecord) (records : List ItemRecord) :
    segmentsOwned (insertRecord r records) = segmentsOwned records + r.segments.length := by
  induction records with
  | nil => simp [insertRecord, segmentsOwned]
  | cons y rest ih =>
    by_cases h : r.accession < y.accession
    · simp [insertRecord, h, segmentsOwned]; omega
    · simp [insertRecord, h, segmentsOwned] at ih ⊢; omega

/-- A catalogue in ascending accession stays so. -/
theorem insertRecord_pairwise {r : ItemRecord} {records : List ItemRecord}
    (h : records.Pairwise (fun a b => a.accession < b.accession))
    (hr : findRecord records r.accession = none) :
    (insertRecord r records).Pairwise (fun a b => a.accession < b.accession) := by
  rw [findRecord_eq_none] at hr
  induction records with
  | nil => simp [insertRecord]
  | cons y rest ih =>
    by_cases hy : r.accession < y.accession
    · rw [insertRecord, if_pos hy]
      refine List.pairwise_cons.2 ⟨fun z hz => ?_, h⟩
      rcases List.mem_cons.1 hz with rfl | hz
      · exact hy
      · exact hy.trans (List.rel_of_pairwise_cons h hz)
    · rw [insertRecord, if_neg hy]
      refine List.pairwise_cons.2 ⟨fun z hz => ?_,
        ih (List.Pairwise.of_cons h) fun x hx => hr x (List.mem_cons_of_mem _ hx)⟩
      rcases mem_insertRecord.1 hz with rfl | hz
      · have := hr y (List.mem_cons_self ..); omega
      · exact List.rel_of_pairwise_cons h hz

/-- What is found after a record is put in its place. -/
theorem findRecord_insertRecord {r : ItemRecord} {records : List ItemRecord}
    (hr : findRecord records r.accession = none) (b : Nat) :
    findRecord (insertRecord r records) b =
      if b = r.accession then some r else findRecord records b := by
  rw [findRecord_eq_none] at hr
  induction records with
  | nil =>
    by_cases h : r.accession = b <;> simp [insertRecord, findRecord, h, eq_comm (a := b)]
  | cons y rest ih =>
    have hy := hr y (List.mem_cons_self ..)
    have ih := ih fun x hx => hr x (List.mem_cons_of_mem _ hx)
    by_cases h : r.accession < y.accession
    · rw [insertRecord, if_pos h]
      by_cases hb : b = r.accession
      · simp [findRecord, hb]
      · simp [findRecord, hb, Ne.symm hb]
    · rw [insertRecord, if_neg h]
      by_cases hyb : y.accession = b
      · simp [findRecord, hyb, show b ≠ r.accession by omega]
      · simp only [findRecord, List.find?_cons, show (y.accession == b) = false by simpa using hyb]
          at ih ⊢
        exact ih

/-! ### Records removed -/

/-- What is found after some records are removed, from a catalogue in ascending accession. -/
theorem findRecord_filter {records : List ItemRecord} {p : ItemRecord → Bool}
    (h : records.Pairwise (fun a b => a.accession < b.accession)) (b : Nat) :
    findRecord (records.filter p) b = (findRecord records b).filter p := by
  induction records with
  | nil => simp [findRecord]
  | cons y rest ih =>
    have ih := ih (List.Pairwise.of_cons h)
    by_cases hy : y.accession = b
    · have none_left : findRecord (rest.filter p) b = none := by
        rw [findRecord_eq_none]
        intro z hz
        have := List.rel_of_pairwise_cons h (List.mem_filter.1 hz).1
        omega
      cases hp : p y
      · simpa [findRecord, hp, hy, Option.filter] using none_left
      · simp [findRecord, hp, hy, Option.filter]
    · cases hp : p y <;> simpa [findRecord, hp, hy] using ih

/-- What is found after the record at one accession is removed. -/
theorem findRecord_filter_ne {records : List ItemRecord} (a b : Nat) :
    findRecord (records.filter fun r => r.accession ≠ a) b =
      if b = a then none else findRecord records b := by
  induction records with
  | nil => simp [findRecord]
  | cons y rest ih =>
    by_cases hy : y.accession = a
    · rw [List.filter_cons_of_neg (by simp [hy]), ih]
      by_cases hb : b = a
      · simp [hb]
      · simp [hb, findRecord, hy, Ne.symm hb]
    · rw [List.filter_cons_of_pos (by simp [hy])]
      by_cases hyb : y.accession = b
      · simp [findRecord, hyb, show b ≠ a by omega]
      · simp only [findRecord, List.find?_cons, show (y.accession == b) = false by simpa using hyb]
          at ih ⊢
        exact ih

/-! ### The carrier index -/

@[simp] theorem mem_insertCarrier {k x : CarrierKey} {l : List CarrierKey} :
    x ∈ insertCarrier k l ↔ x = k ∨ x ∈ l := by
  induction l with
  | nil => simp [insertCarrier]
  | cons y rest ih =>
    cases h : k.before y
    · simp only [insertCarrier, h, List.mem_cons, ih, Bool.false_eq_true, if_false]
      tauto
    · simp [insertCarrier, h]

/-- The carrier index holds the key of every record that is not WITHDRAWN (R14). -/
theorem mem_carriersOf {records : List ItemRecord} {k : CarrierKey} :
    k ∈ carriersOf records ↔ ∃ r ∈ records, r.state ≠ .withdrawn ∧ r.carrierKey = k := by
  have key : ∀ l : List ItemRecord,
      k ∈ l.foldr (fun r acc => insertCarrier r.carrierKey acc) [] ↔ ∃ r ∈ l, r.carrierKey = k := by
    intro l
    induction l with
    | nil => simp
    | cons r rest ih =>
      simp only [List.foldr_cons, mem_insertCarrier, ih, List.mem_cons, exists_eq_or_imp]
      rw [eq_comm]
  rw [carriersOf, key]
  simp [and_assoc]

theorem CarrierKey.before_iff {a b : CarrierKey} :
    a.before b = true ↔ a.carrierId < b.carrierId ∨ (a.carrierId = b.carrierId ∧
      (a.side < b.side ∨ (a.side = b.side ∧ (a.track < b.track ∨
        (a.track = b.track ∧ a.accession < b.accession))))) := by
  simp [CarrierKey.before]

/-- Two keys of different accessions stand in one order or the other. -/
theorem CarrierKey.before_of_not {a b : CarrierKey} (h : a.before b ≠ true)
    (hne : a.accession ≠ b.accession) : b.before a = true := by
  rw [Ne, CarrierKey.before_iff] at h
  rw [CarrierKey.before_iff]; omega

theorem CarrierKey.before_trans {a b c : CarrierKey} (h : a.before b = true) (h' : b.before c = true) :
    a.before c = true := by
  rw [CarrierKey.before_iff] at *; omega

/-- A key put in its place leaves the index in order. -/
theorem insertCarrier_pairwise {k : CarrierKey} {l : List CarrierKey}
    (h : l.Pairwise (fun a b => a.before b = true)) (hk : ∀ x ∈ l, x.accession ≠ k.accession) :
    (insertCarrier k l).Pairwise (fun a b => a.before b = true) := by
  induction l with
  | nil => simp [insertCarrier]
  | cons y rest ih =>
    cases hy : k.before y
    · rw [insertCarrier, hy, if_neg (by simp)]
      refine List.pairwise_cons.2 ⟨fun z hz => ?_,
        ih (List.Pairwise.of_cons h) fun x hx => hk x (List.mem_cons_of_mem _ hx)⟩
      rcases mem_insertCarrier.1 hz with rfl | hz
      · exact CarrierKey.before_of_not (by simp [hy]) (hk y (List.mem_cons_self ..)).symm
      · exact List.rel_of_pairwise_cons h hz
    · rw [insertCarrier, hy, if_pos rfl]
      refine List.pairwise_cons.2 ⟨fun z hz => ?_, h⟩
      rcases List.mem_cons.1 hz with rfl | hz
      · exact hy
      · exact CarrierKey.before_trans hy (List.rel_of_pairwise_cons h hz)

/-- The carrier index of a catalogue in ascending accession is in its own order (R14). -/
theorem carriersOf_pairwise {records : List ItemRecord}
    (h : records.Pairwise (fun a b => a.accession < b.accession)) :
    (carriersOf records).Pairwise (fun a b => a.before b = true) := by
  have h := h.filter (fun r => decide (r.state ≠ .withdrawn))
  rw [carriersOf]
  generalize records.filter (fun r => decide (r.state ≠ .withdrawn)) = l at h
  induction l with
  | nil => simp
  | cons r rest ih =>
    refine insertCarrier_pairwise (ih (List.Pairwise.of_cons h)) fun x hx => ?_
    have key : ∀ l : List ItemRecord, x ∈ l.foldr (fun r acc => insertCarrier r.carrierKey acc) [] →
        ∃ y ∈ l, y.carrierKey = x := by
      intro l
      induction l with
      | nil => simp
      | cons y rest ih =>
        simp only [List.foldr_cons, mem_insertCarrier]
        rintro (rfl | h)
        · exact ⟨y, List.mem_cons_self .., rfl⟩
        · obtain ⟨z, hz, rfl⟩ := ih h
          exact ⟨z, List.mem_cons_of_mem _ hz, rfl⟩
    obtain ⟨y, hy, rfl⟩ := key rest hx
    have := List.rel_of_pairwise_cons h hy
    simp [ItemRecord.carrierKey]; omega

/-! ### The accession index -/

/-- The accession index of a catalogue names its accessions in its order (R13). -/
@[simp] theorem map_accession_entriesOf (old : Index) (records : List ItemRecord) :
    (entriesOf old records).map (·.accession) = records.map (·.accession) := by
  simp only [entriesOf, List.map_map]
  apply List.map_congr_left
  intro r _
  cases h : old.entry? r.accession with
  | none => simp [h]
  | some e =>
    have := List.find?_some h
    simpa [h] using this

@[simp] theorem map_accession_setPending (ix : Index) (a : Nat) (b : Bool) :
    (ix.setPending a b).entries.map (·.accession) = ix.entries.map (·.accession) := by
  simp only [Index.setPending, List.map_map]
  apply List.map_congr_left
  intro e _
  by_cases h : e.accession = a <;> simp [h]

@[simp] theorem map_accession_counted (ix : Index) (cursors : Table Cursor 16) :
    (ix.counted cursors).entries.map (·.accession) = ix.entries.map (·.accession) := by
  simp [Index.counted]

/-- A setting of the pending field reaches the one accession, and no use count. -/
theorem entry?_setPending (ix : Index) (a b : Nat) (value : Bool) :
    (ix.setPending a value).entry? b =
      (ix.entry? b).map fun e => if b = a then { e with pending := value } else e := by
  unfold Index.entry? Index.setPending
  induction ix.entries with
  | nil => rfl
  | cons e rest ih =>
    by_cases h : e.accession = a
    · by_cases hb : e.accession = b
      · simp [h, ← hb]
      · simp only [List.map_cons, h, if_true, List.find?_cons]
        rw [show (a == b) = false by simp; omega]
        exact ih
    · by_cases hb : e.accession = b
      · subst hb; simp [h]
      · simp only [List.map_cons, h, if_false, List.find?_cons]
        rw [show (e.accession == b) = false by simpa using hb]
        exact ih

@[simp] theorem useCount_setPending (ix : Index) (a b : Nat) (value : Bool) :
    (ix.setPending a value).useCount b = ix.useCount b := by
  rw [Index.useCount, Index.useCount, entry?_setPending]
  cases ix.entry? b with
  | none => rfl
  | some e => by_cases h : b = a <;> simp [h]

end Sys2Proof.Machine
end

