-- ==== Sys2Proof/Laws/Table.lean ====
section
/-! SUPPORT. Reading, writing and mapping the fixed-length tables. -/

namespace Sys2Proof

variable {α β : Type} {n : Nat}

theorem Table.ext_list {t u : Table α n} (h : t.list = u.list) : t = u := by
  cases t; cases u; simp_all

@[simp] theorem Table.get_set_self (t : Table α n) (i : Fin n) (x : α) : (t.set i x).get i = x := by
  simp [Table.get, Table.set]

@[simp] theorem Table.get_set_ne (t : Table α n) {i j : Fin n} (x : α) (h : i ≠ j) :
    (t.set i x).get j = t.get j := by
  have : i.val ≠ j.val := fun e => h (Fin.ext e)
  simp [Table.get, Table.set, this]

/-- What a table reads after one write. -/
theorem Table.get_set (t : Table α n) (i j : Fin n) (x : α) :
    (t.set i x).get j = if i = j then x else t.get j := by
  by_cases h : i = j
  · subst h; simp
  · simp [h]

@[simp] theorem Table.get_map (f : α → β) (t : Table α n) (i : Fin n) :
    (t.map f).get i = f (t.get i) := by
  simp [Table.get, Table.map]

@[simp] theorem Table.get_fill (x : α) (i : Fin n) : (Table.fill n x).get i = x := by
  simp [Table.get, Table.fill]

theorem Table.get_mem (t : Table α n) (i : Fin n) : t.get i ∈ t.list := List.getElem_mem _

theorem Table.mem_list_iff {t : Table α n} {x : α} : x ∈ t.list ↔ ∃ i, t.get i = x := by
  constructor
  · intro h
    obtain ⟨k, hk, rfl⟩ := List.getElem_of_mem h
    exact ⟨⟨k, by rw [← t.size]; exact hk⟩, rfl⟩
  · rintro ⟨i, rfl⟩
    exact t.get_mem i

/-- Two tables that read alike are equal. -/
theorem Table.ext_get {t u : Table α n} (h : ∀ i, t.get i = u.get i) : t = u := by
  apply Table.ext_list
  apply List.ext_getElem (by rw [t.size, u.size])
  intro k hk _
  have := h ⟨k, by rw [← t.size]; exact hk⟩
  simpa [Table.get] using this

@[simp] theorem Table.set_get_self (t : Table α n) (i : Fin n) : t.set i (t.get i) = t := by
  apply Table.ext_get
  intro j
  rw [Table.get_set]
  split <;> simp_all

@[simp] theorem Table.set_set (t : Table α n) (i : Fin n) (x y : α) :
    (t.set i x).set i y = t.set i y := by
  apply Table.ext_get
  intro j
  simp only [Table.get_set]
  split <;> rfl

end Sys2Proof
end

