-- ==== Sys2Proof/Laws/Ops.lean ====
section
/-! SUPPORT. What each shared operation over the state can do: settling the counts, reaching every cursor
of a kind, taking READY entries, reaching stages, noting a commit. Later proofs cite these and do not
unfold the operations. -/

namespace Sys2Proof.Machine

/-! ### Settling the counts -/

theorem State.settleCounts_eq (s : State) : s.settleCounts =
    (s.withIndex (s.index.counted s.cursors)).withQueue
      (s.queue.map fun e => e.follow (framesNaming s.cursors e.accession)) := rfl

@[simp] theorem Entry.follow_accession (e : Entry) (n : Nat) : (e.follow n).accession = e.accession := by
  unfold Entry.follow; split <;> (try split) <;> rfl
@[simp] theorem Entry.follow_payload (e : Entry) (n : Nat) : (e.follow n).payload = e.payload := by
  unfold Entry.follow; split <;> (try split) <;> rfl
@[simp] theorem Entry.follow_age (e : Entry) (n : Nat) : (e.follow n).age = e.age := by
  unfold Entry.follow; split <;> (try split) <;> rfl
@[simp] theorem Entry.follow_stage (e : Entry) (n : Nat) : (e.follow n).stage = e.stage := by
  unfold Entry.follow; split <;> (try split) <;> rfl

/-- An entry follows a count once: following it again changes nothing. -/
@[simp] theorem Entry.follow_follow (e : Entry) (n : Nat) : (e.follow n).follow n = e.follow n := by
  unfold Entry.follow
  rcases Nat.eq_zero_or_pos n with rfl | hn
  · cases h : e.state <;> simp [h]
  · cases h : e.state <;> simp [h, hn, hn.ne']

/-- Settling leaves every use count the number of frames that name its record (R4). -/
theorem State.settleCounts_counts (s : State) : ∀ e ∈ s.settleCounts.index.entries,
    e.useCount = framesNaming s.settleCounts.cursors e.accession := by
  intro e he
  simp only [State.settleCounts, State.withQueue_index, State.withIndex_index, Index.counted,
    List.mem_map] at he
  obtain ⟨x, -, rfl⟩ := he
  rfl

/-- Settled counts stay as they are. -/
@[simp] theorem State.settleCounts_settleCounts (s : State) : s.settleCounts.settleCounts = s.settleCounts := by
  simp [State.settleCounts, Index.counted, State.withIndex, State.withQueue]

/-- The counts depend on the paths alone. -/
theorem framesNaming_congr {t u : Table Cursor 16} (h : ∀ n, (t.get n).path = (u.get n).path) (a : Nat) :
    framesNaming t a = framesNaming u a := by
  have : t.list.map (·.path) = u.list.map (·.path) := by
    apply List.ext_getElem (by simp [t.size, u.size])
    intro k h1 h2
    have := h ⟨k, by simpa [t.size] using h1⟩
    simpa [Table.get] using this
  have := congrArg (fun x => (x.map (fun p => p.countP fun f : PathFrame => f.accession == a)).sum) this
  simpa [framesNaming, List.map_map, Function.comp_def] using this

theorem framesNaming_eq_zero {t : Table Cursor 16} {a : Nat} :
    framesNaming t a = 0 ↔ ∀ c ∈ t.list, ∀ f ∈ c.path, f.accession ≠ a := by
  simp [framesNaming, List.sum_eq_zero_iff, List.countP_eq_zero]

/-- A setting of the pending field leaves every use count. -/
theorem map_useCount_setPending (ix : Index) (a : Nat) (b : Bool) :
    (ix.setPending a b).entries.map (fun e => (e.accession, e.useCount)) =
      ix.entries.map (fun e => (e.accession, e.useCount)) := by
  simp only [Index.setPending, List.map_map]
  apply List.map_congr_left
  intro e _
  by_cases h : e.accession = a <;> simp [h]

/-! ### A notice and a new context for every cursor of a kind -/

/-- The notices after one raise for each cursor that `p` picks. -/
def noticesFor (p : Fin 16 → Bool) (x : Fin 16 → Notice) (enables : BitVec 10) (l : List (Fin 16))
    (n : Notices) : Notices :=
  l.foldl (fun m c => if p c then (m.record (x c)).testLatch enables else m) n

/-- A fold that rewrites the cursors `p` picks and raises a notice for each is one update of the table and
one of the notices. -/
theorem foldl_setCursor_raise (p : Fin 16 → Bool) (f : Fin 16 → Cursor) (x : Fin 16 → Notice)
    (l : List (Fin 16)) (s : State) :
    ∃ table : Table Cursor 16,
      l.foldl (fun t n => if p n then (t.setCursor n (f n)).raise (x n) else t) s =
        (s.withCursors table).withNotices (noticesFor p x s.settings.noticeEnables l s.notices) ∧
      ∀ n, table.get n = if n ∈ l ∧ p n = true then f n else s.cursors.get n := by
  induction l generalizing s with
  | nil => exact ⟨s.cursors, rfl, by simp⟩
  | cons m rest ih =>
    by_cases hm : p m = true
    · obtain ⟨table, ht, hg⟩ := ih ((s.setCursor m (f m)).raise (x m))
      refine ⟨table, ?_, fun n => ?_⟩
      · rw [List.foldl_cons, if_pos hm, ht]
        simp [noticesFor, hm]
        rfl
      · rw [hg]
        by_cases hn : n ∈ rest ∧ p n = true
        · simp [hn]
        · by_cases e : n = m
          · subst e; simp [hm]
          · simp [e, hn, Table.get_set_ne _ _ (Ne.symm e)]
    · obtain ⟨table, ht, hg⟩ := ih s
      refine ⟨table, ?_, fun n => ?_⟩
      · rw [List.foldl_cons, if_neg hm, ht]
        simp [noticesFor, hm]
      · rw [hg]
        by_cases e : n = m
        · subst e; simp [hm]
        · simp [e]

/-- A detach request: every cursor whose path names the item is detached, and one raise for each (R100). -/
theorem State.detachAll_eq (s : State) (a : Nat) : s.detachAll a =
    (s.withCursors (s.cursors.map fun c => if c.names a then c.detachedNow else c)).withNotices
      (noticesFor (fun n => (s.cursors.get n).names a) Notice.cursorDetached s.settings.noticeEnables
        (List.finRange 16) s.notices) := by
  obtain ⟨table, h, hg⟩ := foldl_setCursor_raise (fun n => (s.cursors.get n).names a)
    (fun n => (s.cursors.get n).detachedNow) Notice.cursorDetached (List.finRange 16) s
  have : table = s.cursors.map fun c => if c.names a then c.detachedNow else c := by
    apply Table.ext_get
    intro n
    simp [hg]
  rw [State.detachAll, h, this]

/-- CLEAR HOLDINGS on the cursors: every cursor whose path names a removed record is faulted, one raise for
each, and the counts settled (R145). -/
theorem State.dropRemoved_eq (s : State) (records : List ItemRecord) : s.dropRemoved records =
    ((s.withCursors (s.cursors.map fun c =>
        if c.namesRemoved records then c.faultedWith .missingTarget else c)).withNotices
      (noticesFor (fun n => (s.cursors.get n).namesRemoved records) Notice.cursorFaulted
        s.settings.noticeEnables (List.finRange 16) s.notices)).settleCounts := by
  obtain ⟨table, h, hg⟩ := foldl_setCursor_raise (fun n => (s.cursors.get n).namesRemoved records)
    (fun n => (s.cursors.get n).faultedWith .missingTarget) Notice.cursorFaulted (List.finRange 16) s
  have : table = s.cursors.map fun c =>
      if c.namesRemoved records then c.faultedWith .missingTarget else c := by
    apply Table.ext_get
    intro n
    simp [hg]
  rw [State.dropRemoved, h, this]

/-- Raises leave a latch that is settled settled. -/
theorem noticesFor_settled {p : Fin 16 → Bool} {x : Fin 16 → Notice} {enables : BitVec 10}
    {l : List (Fin 16)} {n : Notices}
    (h : ¬(n.latched = false ∧ n.armed = true ∧ n.enabledPending enables = true)) :
    ¬((noticesFor p x enables l n).latched = false ∧ (noticesFor p x enables l n).armed = true ∧
      (noticesFor p x enables l n).enabledPending enables = true) := by
  induction l generalizing n with
  | nil => exact h
  | cons c rest ih =>
    by_cases hc : p c = true
    · simp only [noticesFor, List.foldl_cons, hc, if_true]
      exact ih (Notices.testLatch_settled _ _)
    · simp only [noticesFor, List.foldl_cons, hc]
      exact ih h

/-- Raises keep every bit of the detached mask and set one for each cursor picked. -/
theorem noticesFor_cursorDetached (p : Fin 16 → Bool) (enables : BitVec 10) (l : List (Fin 16))
    (n : Notices) (c : Fin 16) :
    (noticesFor p Notice.cursorDetached enables l n).cursorDetached.getLsbD c.val =
      (n.cursorDetached.getLsbD c.val || (decide (c ∈ l) && p c)) := by
  induction l generalizing n with
  | nil => simp [noticesFor]
  | cons d rest ih =>
    by_cases hd : p d = true
    · simp only [noticesFor, List.foldl_cons, hd, if_true] at ih ⊢
      rw [ih]
      simp only [Notices.testLatch_cursorDetached, Notices.record]
      rw [getLsbD_or_twoPow _ _ _ _ c.isLt]
      by_cases e : c = d
      · subst e; simp [hd]
      · simp [e, Fin.val_inj]
    · simp only [noticesFor, List.foldl_cons, hd] at ih ⊢
      rw [ih]
      by_cases e : c = d
      · subst e; simp [hd]
      · simp [e]

/-- Raises keep every bit of the faulted mask and set one for each cursor picked. -/
theorem noticesFor_cursorFaulted (p : Fin 16 → Bool) (enables : BitVec 10) (l : List (Fin 16))
    (n : Notices) (c : Fin 16) :
    (noticesFor p Notice.cursorFaulted enables l n).cursorFaulted.getLsbD c.val =
      (n.cursorFaulted.getLsbD c.val || (decide (c ∈ l) && p c)) := by
  induction l generalizing n with
  | nil => simp [noticesFor]
  | cons d rest ih =>
    by_cases hd : p d = true
    · simp only [noticesFor, List.foldl_cons, hd, if_true] at ih ⊢
      rw [ih]
      simp only [Notices.testLatch_cursorFaulted, Notices.record]
      rw [getLsbD_or_twoPow _ _ _ _ c.isLt]
      by_cases e : c = d
      · subst e; simp [hd]
      · simp [e, Fin.val_inj]
    · simp only [noticesFor, List.foldl_cons, hd] at ih ⊢
      rw [ih]
      by_cases e : c = d
      · subst e; simp [hd]
      · simp [e]

/-! ### The last-commit record -/

/-- Noting a commit writes the last-commit record, and reads a free value only where the change names an
item that has no record (R147; log entry 10). -/
theorem State.noteCommit_eq (s : State) (c : Change) (outcome : CommitOutcome)
    (records : List ItemRecord) :
    ∃ revision k, s.noteCommit c outcome records = (s.withOpenValues k).withEngine
        { s.engine with lastCommit := some ⟨c.accession, c.kind, outcome, revision⟩ } ∧
      (c.namesItem = false → revision = 0#16 ∧ k = s.openValues) ∧
      (c.namesItem = true → ∀ r, findRecord records c.accession = some r →
        revision = r.revision ∧ k = s.openValues) := by
  unfold State.noteCommit
  cases hn : c.namesItem
  · exact ⟨0#16, s.openValues, rfl, by simp, by simp⟩
  · cases hr : findRecord records c.accession with
    | none => exact ⟨Config.revisionOfNoRecord s.openValues, s.openValues + 1, rfl, by simp, by simp⟩
    | some r => exact ⟨r.revision, s.openValues, rfl, by simp,
        by rintro - r' ⟨⟩; exact ⟨rfl, rfl⟩⟩

section
variable (s : State) (c : Change) (o : CommitOutcome) (l : List ItemRecord)
@[simp] theorem State.noteCommit_pending : (s.noteCommit c o l).pending = s.pending := by
  obtain ⟨r, k, h, -⟩ := s.noteCommit_eq c o l; simp [h]
@[simp] theorem State.noteCommit_pins : (s.noteCommit c o l).pins = s.pins := by
  obtain ⟨r, k, h, -⟩ := s.noteCommit_eq c o l; simp [h]
@[simp] theorem State.noteCommit_link : (s.noteCommit c o l).link = s.link := by
  obtain ⟨r, k, h, -⟩ := s.noteCommit_eq c o l; simp [h]
@[simp] theorem State.noteCommit_starting : (s.noteCommit c o l).starting = s.starting := by
  obtain ⟨r, k, h, -⟩ := s.noteCommit_eq c o l; simp [h]
@[simp] theorem State.noteCommit_resetPending : (s.noteCommit c o l).resetPending = s.resetPending := by
  obtain ⟨r, k, h, -⟩ := s.noteCommit_eq c o l; simp [h]
@[simp] theorem State.noteCommit_store : (s.noteCommit c o l).store = s.store := by
  obtain ⟨r, k, h, -⟩ := s.noteCommit_eq c o l; simp [h]
@[simp] theorem State.noteCommit_index : (s.noteCommit c o l).index = s.index := by
  obtain ⟨r, k, h, -⟩ := s.noteCommit_eq c o l; simp [h]
@[simp] theorem State.noteCommit_resolution : (s.noteCommit c o l).resolution = s.resolution := by
  obtain ⟨r, k, h, -⟩ := s.noteCommit_eq c o l; simp [h]
@[simp] theorem State.noteCommit_cursors : (s.noteCommit c o l).cursors = s.cursors := by
  obtain ⟨r, k, h, -⟩ := s.noteCommit_eq c o l; simp [h]
@[simp] theorem State.noteCommit_volumes : (s.noteCommit c o l).volumes = s.volumes := by
  obtain ⟨r, k, h, -⟩ := s.noteCommit_eq c o l; simp [h]
@[simp] theorem State.noteCommit_inFlight : (s.noteCommit c o l).engine.inFlight = s.engine.inFlight := by
  obtain ⟨r, k, h, -⟩ := s.noteCommit_eq c o l; simp [h]
@[simp] theorem State.noteCommit_frozen : (s.noteCommit c o l).engine.frozen = s.engine.frozen := by
  obtain ⟨r, k, h, -⟩ := s.noteCommit_eq c o l; simp [h]
@[simp] theorem State.noteCommit_queue : (s.noteCommit c o l).queue = s.queue := by
  obtain ⟨r, k, h, -⟩ := s.noteCommit_eq c o l; simp [h]
@[simp] theorem State.noteCommit_notices : (s.noteCommit c o l).notices = s.notices := by
  obtain ⟨r, k, h, -⟩ := s.noteCommit_eq c o l; simp [h]
@[simp] theorem State.noteCommit_settings : (s.noteCommit c o l).settings = s.settings := by
  obtain ⟨r, k, h, -⟩ := s.noteCommit_eq c o l; simp [h]
@[simp] theorem State.noteCommit_milliseconds : (s.noteCommit c o l).milliseconds = s.milliseconds := by
  obtain ⟨r, k, h, -⟩ := s.noteCommit_eq c o l; simp [h]
end

/-! ### Taking READY entries -/

theorem State.mayTake_eq_true {s : State} : s.mayTake = true ↔
    s.engine.inFlight = none ∧ s.engine.frozen = false ∧ s.resetPending = false := by
  simp [State.mayTake, State.committing, and_assoc]

theorem State.oldestReady_eq_none {s : State} : s.oldestReady = none ↔ s.readyCount = 0 := by
  simp [State.oldestReady, State.readyCount, List.countP_eq_zero]

/-- With no READY entry, or no engine that may take one, nothing is taken. -/
theorem State.takeEntries_of_none (n : Nat) {s : State} (h : s.mayTake = true → s.readyCount = 0) :
    State.takeEntries n s = s := by
  cases n with
  | zero => rfl
  | succ n =>
    rw [State.takeEntries]
    split
    · rename_i hm; rw [State.oldestReady_eq_none.2 (h hm)]
    · rfl

theorem State.proceed_of_none {s : State} (h : s.mayTake = true → s.readyCount = 0) : s.proceed = s :=
  State.takeEntries_of_none _ h

/-- What a take may do: fail an entry late, or start its commit. A property kept by both is kept by
proceeding. -/
theorem State.takeEntries_keeps {P : State → Prop}
    (late : ∀ s e outcome, P s → s.mayTake = true → s.oldestReady = some e →
      s.recheck e = some outcome → P (s.lateFailure e outcome))
    (take : ∀ s e, P s → s.mayTake = true → s.oldestReady = some e → s.recheck e = none →
      P ((s.withQueue (modifyEntry e.accession (fun x => { x with state := .committing })
        s.queue)).startCommit e.payload .queue))
    (n : Nat) {s : State} (h : P s) : P (State.takeEntries n s) := by
  induction n generalizing s with
  | zero => exact h
  | succ n ih =>
    rw [State.takeEntries]
    split
    · rename_i hm
      split
      · exact h
      · rename_i e he
        split
        · rename_i outcome hr; exact ih (late s e outcome h hm he hr)
        · rename_i hr; exact take s e h hm he hr
    · exact h

theorem State.proceed_keeps {P : State → Prop}
    (late : ∀ s e outcome, P s → s.mayTake = true → s.oldestReady = some e →
      s.recheck e = some outcome → P (s.lateFailure e outcome))
    (take : ∀ s e, P s → s.mayTake = true → s.oldestReady = some e → s.recheck e = none →
      P ((s.withQueue (modifyEntry e.accession (fun x => { x with state := .committing })
        s.queue)).startCommit e.payload .queue))
    {s : State} (h : P s) : P s.proceed :=
  State.takeEntries_keeps late take _ h

@[simp] theorem State.removeEntry_queue_eq (s : State) (a : Nat) :
    (s.removeEntry a).queue = s.queue.filter fun e => e.accession ≠ a := rfl

@[simp] theorem State.lateFailure_queue (s : State) (e : Entry) (o : CommitOutcome) :
    (s.lateFailure e o).queue = s.queue.filter fun x => x.accession ≠ e.accession := by
  simp [State.lateFailure]

/-- A late failure takes at least its own entry out of the queue. -/
theorem State.lateFailure_queue_length {s : State} {e : Entry} {o : CommitOutcome} (h : e ∈ s.queue) :
    (s.lateFailure e o).queue.length < s.queue.length := by
  rw [State.lateFailure_queue]
  have := List.length_filter_lt_length_iff_exists (p := fun x : Entry => decide (x.accession ≠ e.accession))
    (l := s.queue)
  exact this.2 ⟨e, h, by simp⟩

/-- Once the engine has proceeded, no READY entry waits for an engine that may take it (R203). -/
theorem State.proceed_readyTaken (s : State) : s.proceed.readyTaken := by
  have key : ∀ n (t : State), t.queue.length ≤ n → (State.takeEntries n t).readyTaken := by
    intro n
    induction n with
    | zero =>
      intro t ht _
      have : t.queue = [] := List.eq_nil_of_length_eq_zero (by omega)
      simp [State.takeEntries, State.readyCount, this]
    | succ n ih =>
      intro t ht
      rw [State.takeEntries]
      split
      · split
        · rename_i h; exact fun _ => State.oldestReady_eq_none.1 h
        · rename_i e he
          split
          · have := State.lateFailure_queue_length (o := ‹_›) (List.mem_of_find?_eq_some he)
            exact ih _ (by omega)
          · intro h
            rw [State.mayTake_eq_true] at h
            simp [State.startCommit] at h
      · rename_i h; exact fun h' => absurd h' h
  exact key _ s le_rfl

/-! ### Stages -/

theorem dueStages_le_three {e : Entry} {st : Settings} {k : Nat} (h : k ∈ e.dueStages st) :
    1 ≤ k ∧ k ≤ 3 := by
  simp only [Entry.dueStages, List.mem_filter, List.mem_cons, List.not_mem_nil, or_false] at h
  omega

/-- What reaching stages may do: take due stages in turn, and settle the counts. A property kept by both
is kept by reaching them. -/
theorem State.reachStages_keeps {P : State → Prop}
    (take : ∀ s a k, P s → 1 ≤ k → k ≤ 3 → P (s.takeStage a k))
    (settle : ∀ s, P s → P s.settleCounts) (a : Nat) {s : State} (h : P s) : P (s.reachStages a) := by
  have fold : ∀ (l : List Nat) (t : State), (∀ k ∈ l, 1 ≤ k ∧ k ≤ 3) → P t →
      P (l.foldl (fun t k => t.takeStage a k) t) := by
    intro l
    induction l with
    | nil => exact fun _ _ ht => ht
    | cons k rest ih =>
      intro t hl ht
      have hk := hl k (List.mem_cons_self ..)
      exact ih _ (fun j hj => hl j (List.mem_cons_of_mem _ hj)) (take t a k ht hk.1 hk.2)
  unfold State.reachStages
  split
  · exact h
  · split
    · exact h
    · split
      · split
        · exact h
        · exact settle _ (fold _ _ (fun k hk => dueStages_le_three hk) h)
      · exact h

/-- Reaching an entry's stages changes nothing, or settles the counts after the stages taken; a property
that each stage taken keeps holds before that settling. -/
theorem State.reachStages_cases {P : State → Prop} (take : ∀ s a k, P s → 1 ≤ k → k ≤ 3 → P (s.takeStage a k))
    (a : Nat) {s : State} (h : P s) :
    s.reachStages a = s ∨ ∃ t, P t ∧ s.reachStages a = t.settleCounts := by
  have fold : ∀ (l : List Nat) (t : State), (∀ k ∈ l, 1 ≤ k ∧ k ≤ 3) → P t →
      P (l.foldl (fun t k => t.takeStage a k) t) := by
    intro l
    induction l with
    | nil => exact fun _ _ ht => ht
    | cons k rest ih =>
      intro t hl ht
      have hk := hl k (List.mem_cons_self ..)
      exact ih _ (fun j hj => hl j (List.mem_cons_of_mem _ hj)) (take t a k ht hk.1 hk.2)
  unfold State.reachStages
  split
  · exact .inl rfl
  · split
    · exact .inl rfl
    · split
      · split
        · exact .inl rfl
        · exact .inr ⟨_, fold _ _ (fun k hk => dueStages_le_three hk) h, rfl⟩
      · exact .inl rfl

/-- Everything a stage taken does: the entry's stage, the notices, and the cursors that name the item,
yielding or detached (R167 to R170). -/
theorem State.takeStage_eq (s : State) (a k : Nat) : ∃ m f,
    s.takeStage a k = (((s.withQueue (modifyEntry a (fun e => { e with stage := k }) s.queue)).withNotices
      m).withCursors (s.cursors.map f)) ∧
    (s.latchSettled → (s.withNotices m).latchSettled) ∧
    (f = id ∨ f = (fun c => if c.names a then c.yielded else c) ∨
      f = fun c => if c.names a then c.detachedNow else c) := by
  have same : s.cursors.map id = s.cursors := Table.ext_list (by simp [Table.map])
  unfold State.takeStage
  dsimp only
  rw [State.withQueue_settings]
  cases s.settings.action k with
  | none => exact ⟨s.notices, id, by rw [same]; rfl, fun h => h, .inl rfl⟩
  | notify =>
    exact ⟨(s.notices.record .changeStage).testLatch s.settings.noticeEnables, id, by rw [same]; rfl,
      fun _ => Notices.testLatch_settled _ _, .inl rfl⟩
  | yield =>
    exact ⟨(s.notices.record .changeStage).testLatch s.settings.noticeEnables, _, rfl,
      fun _ => Notices.testLatch_settled _ _, .inr (.inl rfl)⟩
  | detach =>
    dsimp only
    rw [State.detachAll_eq]
    exact ⟨noticesFor (fun n => (s.cursors.get n).names a) Notice.cursorDetached
        s.settings.noticeEnables (List.finRange 16)
        ((s.notices.record .changeStage).testLatch s.settings.noticeEnables), _, rfl,
      fun _ => noticesFor_settled (Notices.testLatch_settled _ _), .inr (.inr rfl)⟩

/-- A property that one step of a fold keeps, the fold keeps. -/
theorem foldl_keeps {α β : Type} {P : β → Prop} {f : β → α → β} (hf : ∀ b a, P b → P (f b a))
    (l : List α) {b : β} (h : P b) : P (l.foldl f b) := by
  induction l generalizing b with
  | nil => exact h
  | cons a rest ih => exact ih (hf b a h)

theorem State.reachAllStages_keeps {P : State → Prop}
    (take : ∀ s a k, P s → 1 ≤ k → k ≤ 3 → P (s.takeStage a k))
    (settle : ∀ s, P s → P s.settleCounts) {s : State} (h : P s) : P s.reachAllStages :=
  foldl_keeps (fun _ a hb => State.reachStages_keeps take settle a hb) _ h

theorem State.settle_keeps {P : State → Prop}
    (take : ∀ s a k, P s → 1 ≤ k → k ≤ 3 → P (s.takeStage a k))
    (settle : ∀ s, P s → P s.settleCounts) {s : State} (h : P s) : P s.settle :=
  foldl_keeps (fun _ a hb => State.reachStages_keeps take settle a hb) _ (settle _ h)

/-- With nothing in the queue no stage is reached. -/
@[simp] theorem State.reachStages_of_no_entry {s : State} {a : Nat} (h : s.entry? a = none) :
    s.reachStages a = s := by
  simp [State.reachStages, h]

theorem State.reachAllStages_of_empty {s : State} (h : s.queue = []) : s.reachAllStages = s := by
  simp [State.reachAllStages, h]

theorem State.settle_of_empty {s : State} (h : s.queue = []) : s.settle = s.settleCounts := by
  simp [State.settle, State.reentering, h]

/-- With nothing in the queue, what follows a command's path work is the counts alone. -/
theorem State.settleAndProceed_of_empty {s : State} (h : s.queue = []) :
    s.settleAndProceed = s.settleCounts := by
  rw [State.settleAndProceed, State.settle_of_empty h, State.proceed_of_none]
  intro _
  simp [State.settleCounts, State.readyCount, h]

/-! ### What proceeding and settling leave alone -/

section
variable (s : State)

/-- A late failure or a take reaches the index, the engine, the queue, the notices and the free values
alone. -/
@[simp] theorem State.proceed_pending : s.proceed.pending = s.pending :=
  State.proceed_keeps (P := fun t => t.pending = s.pending)
    (fun _ _ _ h _ _ _ => by simp [State.lateFailure, h]) (fun _ _ h _ _ _ => by simp [h]) rfl
@[simp] theorem State.proceed_pins : s.proceed.pins = s.pins :=
  State.proceed_keeps (P := fun t => t.pins = s.pins)
    (fun _ _ _ h _ _ _ => by simp [State.lateFailure, h]) (fun _ _ h _ _ _ => by simp [h]) rfl
@[simp] theorem State.proceed_link : s.proceed.link = s.link :=
  State.proceed_keeps (P := fun t => t.link = s.link)
    (fun _ _ _ h _ _ _ => by simp [State.lateFailure, h]) (fun _ _ h _ _ _ => by simp [h]) rfl
@[simp] theorem State.proceed_starting : s.proceed.starting = s.starting :=
  State.proceed_keeps (P := fun t => t.starting = s.starting)
    (fun _ _ _ h _ _ _ => by simp [State.lateFailure, h]) (fun _ _ h _ _ _ => by simp [h]) rfl
@[simp] theorem State.proceed_resetPending : s.proceed.resetPending = s.resetPending :=
  State.proceed_keeps (P := fun t => t.resetPending = s.resetPending)
    (fun _ _ _ h _ _ _ => by simp [State.lateFailure, h]) (fun _ _ h _ _ _ => by simp [h]) rfl
@[simp] theorem State.proceed_store : s.proceed.store = s.store :=
  State.proceed_keeps (P := fun t => t.store = s.store)
    (fun _ _ _ h _ _ _ => by simp [State.lateFailure, h]) (fun _ _ h _ _ _ => by simp [h]) rfl
@[simp] theorem State.proceed_resolution : s.proceed.resolution = s.resolution :=
  State.proceed_keeps (P := fun t => t.resolution = s.resolution)
    (fun _ _ _ h _ _ _ => by simp [State.lateFailure, h]) (fun _ _ h _ _ _ => by simp [h]) rfl
@[simp] theorem State.proceed_cursors : s.proceed.cursors = s.cursors :=
  State.proceed_keeps (P := fun t => t.cursors = s.cursors)
    (fun _ _ _ h _ _ _ => by simp [State.lateFailure, h]) (fun _ _ h _ _ _ => by simp [h]) rfl
@[simp] theorem State.proceed_volumes : s.proceed.volumes = s.volumes :=
  State.proceed_keeps (P := fun t => t.volumes = s.volumes)
    (fun _ _ _ h _ _ _ => by simp [State.lateFailure, h]) (fun _ _ h _ _ _ => by simp [h]) rfl
@[simp] theorem State.proceed_settings : s.proceed.settings = s.settings :=
  State.proceed_keeps (P := fun t => t.settings = s.settings)
    (fun _ _ _ h _ _ _ => by simp [State.lateFailure, h]) (fun _ _ h _ _ _ => by simp [h]) rfl
@[simp] theorem State.proceed_milliseconds : s.proceed.milliseconds = s.milliseconds :=
  State.proceed_keeps (P := fun t => t.milliseconds = s.milliseconds)
    (fun _ _ _ h _ _ _ => by simp [State.lateFailure, h]) (fun _ _ h _ _ _ => by simp [h]) rfl
@[simp] theorem State.proceed_frozen : s.proceed.engine.frozen = s.engine.frozen :=
  State.proceed_keeps (P := fun t => t.engine.frozen = s.engine.frozen)
    (fun _ _ _ h _ _ _ => by simp [State.lateFailure, h]) (fun _ _ h _ _ _ => by simp [State.startCommit, h])
    rfl
end

section
variable (s : State)

@[simp] theorem State.takeStage_pending (a k : Nat) : (s.takeStage a k).pending = s.pending := by
  obtain ⟨m, f, h, -⟩ := s.takeStage_eq a k; rw [h]; rfl
@[simp] theorem State.takeStage_pins (a k : Nat) : (s.takeStage a k).pins = s.pins := by
  obtain ⟨m, f, h, -⟩ := s.takeStage_eq a k; rw [h]; rfl
@[simp] theorem State.takeStage_link (a k : Nat) : (s.takeStage a k).link = s.link := by
  obtain ⟨m, f, h, -⟩ := s.takeStage_eq a k; rw [h]; rfl
@[simp] theorem State.takeStage_starting (a k : Nat) : (s.takeStage a k).starting = s.starting := by
  obtain ⟨m, f, h, -⟩ := s.takeStage_eq a k; rw [h]; rfl
@[simp] theorem State.takeStage_resetPending (a k : Nat) : (s.takeStage a k).resetPending = s.resetPending := by
  obtain ⟨m, f, h, -⟩ := s.takeStage_eq a k; rw [h]; rfl
@[simp] theorem State.takeStage_store (a k : Nat) : (s.takeStage a k).store = s.store := by
  obtain ⟨m, f, h, -⟩ := s.takeStage_eq a k; rw [h]; rfl
@[simp] theorem State.takeStage_resolution (a k : Nat) : (s.takeStage a k).resolution = s.resolution := by
  obtain ⟨m, f, h, -⟩ := s.takeStage_eq a k; rw [h]; rfl
@[simp] theorem State.takeStage_volumes (a k : Nat) : (s.takeStage a k).volumes = s.volumes := by
  obtain ⟨m, f, h, -⟩ := s.takeStage_eq a k; rw [h]; rfl
@[simp] theorem State.takeStage_engine (a k : Nat) : (s.takeStage a k).engine = s.engine := by
  obtain ⟨m, f, h, -⟩ := s.takeStage_eq a k; rw [h]; rfl
@[simp] theorem State.takeStage_settings (a k : Nat) : (s.takeStage a k).settings = s.settings := by
  obtain ⟨m, f, h, -⟩ := s.takeStage_eq a k; rw [h]; rfl
@[simp] theorem State.takeStage_milliseconds (a k : Nat) : (s.takeStage a k).milliseconds = s.milliseconds := by
  obtain ⟨m, f, h, -⟩ := s.takeStage_eq a k; rw [h]; rfl
@[simp] theorem State.takeStage_openValues (a k : Nat) : (s.takeStage a k).openValues = s.openValues := by
  obtain ⟨m, f, h, -⟩ := s.takeStage_eq a k; rw [h]; rfl
@[simp] theorem State.reachStages_pending (a : Nat) : (s.reachStages a).pending = s.pending :=
  State.reachStages_keeps (P := fun t => t.pending = s.pending) (fun _ _ _ h _ _ => by simp [h])
    (fun _ h => by simpa [State.settleCounts] using h) a rfl
@[simp] theorem State.reachStages_pins (a : Nat) : (s.reachStages a).pins = s.pins :=
  State.reachStages_keeps (P := fun t => t.pins = s.pins) (fun _ _ _ h _ _ => by simp [h])
    (fun _ h => by simpa [State.settleCounts] using h) a rfl
@[simp] theorem State.reachStages_link (a : Nat) : (s.reachStages a).link = s.link :=
  State.reachStages_keeps (P := fun t => t.link = s.link) (fun _ _ _ h _ _ => by simp [h])
    (fun _ h => by simpa [State.settleCounts] using h) a rfl
@[simp] theorem State.reachStages_starting (a : Nat) : (s.reachStages a).starting = s.starting :=
  State.reachStages_keeps (P := fun t => t.starting = s.starting) (fun _ _ _ h _ _ => by simp [h])
    (fun _ h => by simpa [State.settleCounts] using h) a rfl
@[simp] theorem State.reachStages_resetPending (a : Nat) : (s.reachStages a).resetPending = s.resetPending :=
  State.reachStages_keeps (P := fun t => t.resetPending = s.resetPending) (fun _ _ _ h _ _ => by simp [h])
    (fun _ h => by simpa [State.settleCounts] using h) a rfl
@[simp] theorem State.reachStages_store (a : Nat) : (s.reachStages a).store = s.store :=
  State.reachStages_keeps (P := fun t => t.store = s.store) (fun _ _ _ h _ _ => by simp [h])
    (fun _ h => by simpa [State.settleCounts] using h) a rfl
@[simp] theorem State.reachStages_resolution (a : Nat) : (s.reachStages a).resolution = s.resolution :=
  State.reachStages_keeps (P := fun t => t.resolution = s.resolution) (fun _ _ _ h _ _ => by simp [h])
    (fun _ h => by simpa [State.settleCounts] using h) a rfl
@[simp] theorem State.reachStages_volumes (a : Nat) : (s.reachStages a).volumes = s.volumes :=
  State.reachStages_keeps (P := fun t => t.volumes = s.volumes) (fun _ _ _ h _ _ => by simp [h])
    (fun _ h => by simpa [State.settleCounts] using h) a rfl
@[simp] theorem State.reachStages_engine (a : Nat) : (s.reachStages a).engine = s.engine :=
  State.reachStages_keeps (P := fun t => t.engine = s.engine) (fun _ _ _ h _ _ => by simp [h])
    (fun _ h => by simpa [State.settleCounts] using h) a rfl
@[simp] theorem State.reachStages_settings (a : Nat) : (s.reachStages a).settings = s.settings :=
  State.reachStages_keeps (P := fun t => t.settings = s.settings) (fun _ _ _ h _ _ => by simp [h])
    (fun _ h => by simpa [State.settleCounts] using h) a rfl
@[simp] theorem State.reachStages_milliseconds (a : Nat) : (s.reachStages a).milliseconds = s.milliseconds :=
  State.reachStages_keeps (P := fun t => t.milliseconds = s.milliseconds) (fun _ _ _ h _ _ => by simp [h])
    (fun _ h => by simpa [State.settleCounts] using h) a rfl
@[simp] theorem State.reachStages_openValues (a : Nat) : (s.reachStages a).openValues = s.openValues :=
  State.reachStages_keeps (P := fun t => t.openValues = s.openValues) (fun _ _ _ h _ _ => by simp [h])
    (fun _ h => by simpa [State.settleCounts] using h) a rfl
@[simp] theorem State.reachAllStages_pending : s.reachAllStages.pending = s.pending :=
  State.reachAllStages_keeps (P := fun t => t.pending = s.pending) (fun _ _ _ h _ _ => by simp [h])
    (fun _ h => by simpa [State.settleCounts] using h) rfl
@[simp] theorem State.reachAllStages_pins : s.reachAllStages.pins = s.pins :=
  State.reachAllStages_keeps (P := fun t => t.pins = s.pins) (fun _ _ _ h _ _ => by simp [h])
    (fun _ h => by simpa [State.settleCounts] using h) rfl
@[simp] theorem State.reachAllStages_link : s.reachAllStages.link = s.link :=
  State.reachAllStages_keeps (P := fun t => t.link = s.link) (fun _ _ _ h _ _ => by simp [h])
    (fun _ h => by simpa [State.settleCounts] using h) rfl
@[simp] theorem State.reachAllStages_starting : s.reachAllStages.starting = s.starting :=
  State.reachAllStages_keeps (P := fun t => t.starting = s.starting) (fun _ _ _ h _ _ => by simp [h])
    (fun _ h => by simpa [State.settleCounts] using h) rfl
@[simp] theorem State.reachAllStages_resetPending : s.reachAllStages.resetPending = s.resetPending :=
  State.reachAllStages_keeps (P := fun t => t.resetPending = s.resetPending) (fun _ _ _ h _ _ => by simp [h])
    (fun _ h => by simpa [State.settleCounts] using h) rfl
@[simp] theorem State.reachAllStages_store : s.reachAllStages.store = s.store :=
  State.reachAllStages_keeps (P := fun t => t.store = s.store) (fun _ _ _ h _ _ => by simp [h])
    (fun _ h => by simpa [State.settleCounts] using h) rfl
@[simp] theorem State.reachAllStages_resolution : s.reachAllStages.resolution = s.resolution :=
  State.reachAllStages_keeps (P := fun t => t.resolution = s.resolution) (fun _ _ _ h _ _ => by simp [h])
    (fun _ h => by simpa [State.settleCounts] using h) rfl
@[simp] theorem State.reachAllStages_volumes : s.reachAllStages.volumes = s.volumes :=
  State.reachAllStages_keeps (P := fun t => t.volumes = s.volumes) (fun _ _ _ h _ _ => by simp [h])
    (fun _ h => by simpa [State.settleCounts] using h) rfl
@[simp] theorem State.reachAllStages_engine : s.reachAllStages.engine = s.engine :=
  State.reachAllStages_keeps (P := fun t => t.engine = s.engine) (fun _ _ _ h _ _ => by simp [h])
    (fun _ h => by simpa [State.settleCounts] using h) rfl
@[simp] theorem State.reachAllStages_settings : s.reachAllStages.settings = s.settings :=
  State.reachAllStages_keeps (P := fun t => t.settings = s.settings) (fun _ _ _ h _ _ => by simp [h])
    (fun _ h => by simpa [State.settleCounts] using h) rfl
@[simp] theorem State.reachAllStages_milliseconds : s.reachAllStages.milliseconds = s.milliseconds :=
  State.reachAllStages_keeps (P := fun t => t.milliseconds = s.milliseconds) (fun _ _ _ h _ _ => by simp [h])
    (fun _ h => by simpa [State.settleCounts] using h) rfl
@[simp] theorem State.reachAllStages_openValues : s.reachAllStages.openValues = s.openValues :=
  State.reachAllStages_keeps (P := fun t => t.openValues = s.openValues) (fun _ _ _ h _ _ => by simp [h])
    (fun _ h => by simpa [State.settleCounts] using h) rfl
@[simp] theorem State.settle_pending : s.settle.pending = s.pending :=
  State.settle_keeps (P := fun t => t.pending = s.pending) (fun _ _ _ h _ _ => by simp [h])
    (fun _ h => by simpa [State.settleCounts] using h) rfl
@[simp] theorem State.settle_pins : s.settle.pins = s.pins :=
  State.settle_keeps (P := fun t => t.pins = s.pins) (fun _ _ _ h _ _ => by simp [h])
    (fun _ h => by simpa [State.settleCounts] using h) rfl
@[simp] theorem State.settle_link : s.settle.link = s.link :=
  State.settle_keeps (P := fun t => t.link = s.link) (fun _ _ _ h _ _ => by simp [h])
    (fun _ h => by simpa [State.settleCounts] using h) rfl
@[simp] theorem State.settle_starting : s.settle.starting = s.starting :=
  State.settle_keeps (P := fun t => t.starting = s.starting) (fun _ _ _ h _ _ => by simp [h])
    (fun _ h => by simpa [State.settleCounts] using h) rfl
@[simp] theorem State.settle_resetPending : s.settle.resetPending = s.resetPending :=
  State.settle_keeps (P := fun t => t.resetPending = s.resetPending) (fun _ _ _ h _ _ => by simp [h])
    (fun _ h => by simpa [State.settleCounts] using h) rfl
@[simp] theorem State.settle_store : s.settle.store = s.store :=
  State.settle_keeps (P := fun t => t.store = s.store) (fun _ _ _ h _ _ => by simp [h])
    (fun _ h => by simpa [State.settleCounts] using h) rfl
@[simp] theorem State.settle_resolution : s.settle.resolution = s.resolution :=
  State.settle_keeps (P := fun t => t.resolution = s.resolution) (fun _ _ _ h _ _ => by simp [h])
    (fun _ h => by simpa [State.settleCounts] using h) rfl
@[simp] theorem State.settle_volumes : s.settle.volumes = s.volumes :=
  State.settle_keeps (P := fun t => t.volumes = s.volumes) (fun _ _ _ h _ _ => by simp [h])
    (fun _ h => by simpa [State.settleCounts] using h) rfl
@[simp] theorem State.settle_engine : s.settle.engine = s.engine :=
  State.settle_keeps (P := fun t => t.engine = s.engine) (fun _ _ _ h _ _ => by simp [h])
    (fun _ h => by simpa [State.settleCounts] using h) rfl
@[simp] theorem State.settle_settings : s.settle.settings = s.settings :=
  State.settle_keeps (P := fun t => t.settings = s.settings) (fun _ _ _ h _ _ => by simp [h])
    (fun _ h => by simpa [State.settleCounts] using h) rfl
@[simp] theorem State.settle_milliseconds : s.settle.milliseconds = s.milliseconds :=
  State.settle_keeps (P := fun t => t.milliseconds = s.milliseconds) (fun _ _ _ h _ _ => by simp [h])
    (fun _ h => by simpa [State.settleCounts] using h) rfl
@[simp] theorem State.settle_openValues : s.settle.openValues = s.openValues :=
  State.settle_keeps (P := fun t => t.openValues = s.openValues) (fun _ _ _ h _ _ => by simp [h])
    (fun _ h => by simpa [State.settleCounts] using h) rfl
end

/-! ### Entries -/

@[simp] theorem modifyEntry_accessions {a : Nat} {f : Entry → Entry}
    (hf : ∀ e, (f e).accession = e.accession) (queue : List Entry) :
    (modifyEntry a f queue).map (·.accession) = queue.map (·.accession) := by
  simp only [modifyEntry, List.map_map]
  apply List.map_congr_left
  intro e _
  by_cases h : e.accession = a <;> simp [h, hf]

@[simp] theorem length_modifyEntry (a : Nat) (f : Entry → Entry) (queue : List Entry) :
    (modifyEntry a f queue).length = queue.length := by
  simp [modifyEntry]

/-! ### The tick -/

section
variable (s : State)

@[simp] theorem State.count_pending : s.count.pending = s.pending := by
  unfold State.count; dsimp only; split <;> rfl
@[simp] theorem State.count_pins : s.count.pins = s.pins := by
  unfold State.count; dsimp only; split <;> rfl
@[simp] theorem State.count_link : s.count.link = s.link := by
  unfold State.count; dsimp only; split <;> rfl
@[simp] theorem State.count_starting : s.count.starting = s.starting := by
  unfold State.count; dsimp only; split <;> rfl
@[simp] theorem State.count_resetPending : s.count.resetPending = s.resetPending := by
  unfold State.count; dsimp only; split <;> rfl
@[simp] theorem State.count_store : s.count.store = s.store := by
  unfold State.count; dsimp only; split <;> rfl
@[simp] theorem State.count_index : s.count.index = s.index := by
  unfold State.count; dsimp only; split <;> rfl
@[simp] theorem State.count_resolution : s.count.resolution = s.resolution := by
  unfold State.count; dsimp only; split <;> rfl
@[simp] theorem State.count_cursors : s.count.cursors = s.cursors := by
  unfold State.count; dsimp only; split <;> rfl
@[simp] theorem State.count_volumes : s.count.volumes = s.volumes.map Volume.ticked := by
  unfold State.count; dsimp only; split <;> rfl
@[simp] theorem State.count_engine : s.count.engine = s.engine := by
  unfold State.count; dsimp only; split <;> rfl
@[simp] theorem State.count_notices : s.count.notices = s.notices := by
  unfold State.count; dsimp only; split <;> rfl
@[simp] theorem State.count_settings : s.count.settings = s.settings := by
  unfold State.count; dsimp only; split <;> rfl
@[simp] theorem State.count_milliseconds : s.count.milliseconds = s.milliseconds + 1 := by
  unfold State.count; dsimp only; split <;> rfl
@[simp] theorem State.count_openValues : s.count.openValues = s.openValues := by
  unfold State.count; dsimp only; split <;> rfl
/-- The queue after a millisecond: the ages risen, unless the engine is FROZEN (R165, R174). -/
theorem State.count_queue : s.count.queue =
    if s.engine.frozen then s.queue else s.queue.map Entry.ticked := by
  unfold State.count; dsimp only; simp only [State.withVolumes_engine, State.withMilliseconds_engine]
  by_cases h : s.engine.frozen = true <;> simp [h]
end

/-- The expiries due at a tick: a property that one expiry keeps is kept. -/
theorem State.takeExpiries_keeps {P : State → Prop} (expire : ∀ s v i, P s → P (s.expire v i))
    {s : State} (h : P s) : P s.takeExpiries := by
  unfold State.takeExpiries
  refine foldl_keeps (P := P) (fun t v ht => ?_) _ h
  split
  · exact expire _ _ _ ht
  · exact ht

/-- A property that an expiry, a millisecond counted, the comparison of R167 and a take keep, a tick
keeps. -/
theorem State.tick_keeps {P : State → Prop} (expire : ∀ s v i, P s → P (s.expire v i))
    (count : ∀ s, P s → P s.count) (stages : ∀ s, P s → P s.reachAllStages)
    (proceed : ∀ s, P s → P s.proceed) {s : State} (h : P s) : P s.tick :=
  proceed _ (stages _ (count _ (State.takeExpiries_keeps expire h)))

/-! ### Volumes -/

/-- A volume move reaches one entry and raises at most its own notice. -/
theorem State.moveVolume_eq (s : State) (v : Fin 64) (m : VolumeMove) : ∃ n,
    s.moveVolume v m = (s.setVolume v m.entry).withNotices n ∧
    (m.notice = none → n = s.notices) ∧
    (∀ x, m.notice = some x → n = (s.notices.record x).testLatch s.settings.noticeEnables) := by
  unfold State.moveVolume
  cases m.notice with
  | none => exact ⟨s.notices, rfl, by simp, by simp⟩
  | some x => exact ⟨_, rfl, by simp, by rintro _ ⟨⟩; rfl⟩

end Sys2Proof.Machine
end

