-- ==== Sys2Proof/Laws/Paths.lean ====
section
/-! SUPPORT. What path work can leave: at most four frames, at least one where nothing stopped it, each
new one naming a record that stands and is not WITHDRAWN; and what it makes of a cursor. -/

namespace Sys2Proof.Machine

/-- Whether a record stands at an accession and is not WITHDRAWN. -/
def standing (records : List ItemRecord) (a : Nat) : Prop :=
  ∃ r, findRecord records a = some r ∧ r.state ≠ .withdrawn

/-! ### Pushing -/

@[simp] theorem Walk.push_path (w : Walk) (v : PathView) (f : PathFrame) :
    (w.push v f).path = w.path ++ [f] := by
  unfold Walk.push; split <;> rfl

@[simp] theorem Walk.faulted_path (w : Walk) (c : FaultCode) : (w.faulted c).path = w.path := rfl

/-- A push stops path work only where it meets a DETACH (R101). -/
theorem Walk.push_stop (w : Walk) (v : PathView) (f : PathFrame) :
    (w.push v f).stop = if v.action f.accession = .detach then some .detached else w.stop := by
  unfold Walk.push; cases v.action f.accession <;> rfl

/-- A chain of successors ends at a record that stands and is not WITHDRAWN (R66). -/
theorem followSuccessors_standing {records : List ItemRecord} {links : Nat} {r reached : ItemRecord}
    (hr : findRecord records r.accession = some r)
    (h : followSuccessors records links r = .ok reached) : standing records reached.accession := by
  induction links generalizing r with
  | zero =>
    rw [followSuccessors] at h
    by_cases hs : r.state = .withdrawn
    · rw [if_pos hs] at h
      split at h <;> simp at h
    · rw [if_neg hs] at h
      cases h; exact ⟨_, hr, hs⟩
  | succ links ih =>
    rw [followSuccessors] at h
    by_cases hs : r.state = .withdrawn
    · rw [if_pos hs] at h
      cases ha : r.successor with
      | none => simp [ha] at h
      | some a =>
        cases hn : findRecord records a with
        | none => simp [ha, hn] at h
        | some next =>
          simp only [ha, hn] at h
          exact ih (by rw [findRecord_accession hn]; exact hn) h
    · rw [if_neg hs] at h
      cases h; exact ⟨_, hr, hs⟩

/-- A target that resolves is entered in a record that stands, is not WITHDRAWN and admits the clearance
(R65). -/
theorem resolveTarget_ok {v : PathView} {target : Nat} {r : ItemRecord} {via : Bool}
    (h : resolveTarget v target = .ok (r, via)) :
    standing v.records r.accession ∧ r.restriction ≤ v.clearance := by
  unfold resolveTarget at h
  split at h
  · simp at h
  · rename_i t ht
    split at h
    · simp at h
    · rename_i reached hf
      split at h
      · simp at h
      · simp only [Except.ok.injEq, Prod.mk.injEq] at h
        obtain ⟨rfl, -⟩ := h
        exact ⟨followSuccessors_standing (by rw [findRecord_accession ht]; exact ht) hf, by omega⟩

/-! ### Descending -/

/-- A descent keeps the frames it began with, adds at most `room`, and each it adds names a record that
stands and is not WITHDRAWN. -/
theorem Walk.descend_path (v : PathView) (p room : Nat) (w : Walk) :
    ∃ added, (Walk.descend v p room w).path = w.path ++ added ∧ added.length ≤ room ∧
      ∀ f ∈ added, standing v.records f.accession := by
  induction room generalizing w with
  | zero =>
    refine ⟨[], ?_, by simp, by simp⟩
    unfold Walk.descend
    split
    · simp
    · split <;> simp
  | succ room ih =>
    unfold Walk.descend
    split
    · exact ⟨[], by simp, by simp, by simp⟩
    · split
      · exact ⟨[], by simp, by simp, by simp⟩
      · rename_i target displacement _
        dsimp only
        split
        · exact ⟨[], by simp, by simp, by simp⟩
        · rename_i r via hr
          obtain ⟨added, h, hl, hs⟩ := ih (w.push v (frameFor r displacement via p))
          refine ⟨frameFor r displacement via p :: added, by rw [h]; simp, by simpa using hl, ?_⟩
          intro f hf
          rcases List.mem_cons.1 hf with rfl | hf
          · exact (resolveTarget_ok hr).1
          · exact hs f hf

/-- A build leaves at most four frames, each naming a record that stands and is not WITHDRAWN, and at least
one where nothing stopped it (R62 to R66). -/
theorem buildPath_path (v : PathView) (top p : Nat) :
    (buildPath v top p).path.length ≤ 4 ∧
      (∀ f ∈ (buildPath v top p).path, standing v.records f.accession) ∧
      ((buildPath v top p).stop = none → (buildPath v top p).path ≠ []) := by
  unfold buildPath
  dsimp only
  split
  · simp [Walk.faulted]
  · rename_i r hr
    split
    · simp [Walk.faulted]
    · split
      · simp [Walk.faulted]
      · rename_i hw _
        obtain ⟨added, h, hl, hs⟩ := Walk.descend_path v p (Config.pathDepth - 1)
          ((⟨[], false, none⟩ : Walk).push v (frameFor r 0 false p))
        have ha : (frameFor r 0 false p).accession = top := findRecord_accession hr
        rw [h]
        refine ⟨by simp at hl ⊢; omega, fun f hf => ?_, by simp⟩
        rcases List.mem_append.1 hf with hf | hf
        · have : f = frameFor r 0 false p := by simpa using hf
          subst this
          exact ⟨r, by rw [ha]; exact hr, hw⟩
        · exact hs f hf

/-- The frames an advance keeps name what they named, no more of them stand than stood, and one at least
where one stood (R69). -/
theorem keptFrames_path (records : List ItemRecord) (p : Nat) (path : List PathFrame) :
    (keptFrames records p path).1.length ≤ path.length ∧
      (∀ f ∈ (keptFrames records p path).1, ∃ g ∈ path, f.accession = g.accession) ∧
      (path ≠ [] → (keptFrames records p path).1 ≠ []) := by
  induction path with
  | nil => simp [keptFrames]
  | cons f rest ih =>
    unfold keptFrames
    split
    · exact ⟨by simp, fun g hg => ⟨f, by simp, by simp_all⟩, by simp⟩
    · refine ⟨by simpa using ih.1, fun g hg => ?_, by simp⟩
      rcases List.mem_cons.1 hg with rfl | hg
      · exact ⟨g, by simp, rfl⟩
      · obtain ⟨k, hk, e⟩ := ih.2.1 g hg
        exact ⟨k, List.mem_cons_of_mem _ hk, e⟩

/-- An advance leaves at most four frames, at least one, each naming a record that an old frame named or
that stands and is not WITHDRAWN (R69). -/
theorem advancePath_path (v : PathView) (path : List PathFrame) (p : Nat) :
    (path.length ≤ 4 → (advancePath v path p).path.length ≤ 4) ∧
      (∀ f ∈ (advancePath v path p).path,
        (∃ g ∈ path, f.accession = g.accession) ∨ standing v.records f.accession) ∧
      (path ≠ [] → (advancePath v path p).path ≠ []) := by
  obtain ⟨hl, hm, hne⟩ := keptFrames_path v.records p path
  unfold advancePath
  dsimp only
  split
  · obtain ⟨added, ha, hal, has⟩ := Walk.descend_path v p
      (Config.pathDepth - (keptFrames v.records p path).1.length)
      ⟨(keptFrames v.records p path).1, false, none⟩
    rw [ha]
    refine ⟨fun h => by simp only [List.length_append, Config.pathDepth] at *; omega, fun f hf => ?_,
      fun hp => by simp [hne hp]⟩
    rcases List.mem_append.1 hf with hf | hf
    · exact .inl (hm f hf)
    · exact .inr (has f hf)
  · exact ⟨fun h => by dsimp only; omega, fun f hf => .inl (hm f hf), hne⟩

/-! ### What path work makes of a cursor -/

/-- A cursor after path work holds the new path or none, and no fault but the one that stopped it. -/
theorem Cursor.landed_cases (c : Cursor) (w : Walk) :
    (w.stop = none ∧ c.landed w = { c with yieldFlag := c.yieldFlag || w.yielded, path := w.path }) ∨
    (∃ code, w.stop = some (.fault code) ∧ c.landed w = { c with
      yieldFlag := c.yieldFlag || w.yielded, state := .faulted, path := [], lastCopy := none,
      fault := some code }) ∨
    (w.stop = some .detached ∧ c.landed w = { c with
      yieldFlag := c.yieldFlag || w.yielded, state := .detached, path := [], lastCopy := none,
      pendingWrap := false, fault := none }) := by
  unfold Cursor.landed
  cases h : w.stop with
  | none => exact .inl ⟨rfl, rfl⟩
  | some x =>
    cases x with
    | fault code => exact .inr (.inl ⟨code, rfl, rfl⟩)
    | detached => exact .inr (.inr ⟨rfl, rfl⟩)

/-- The frames of a cursor after path work are frames of that work. -/
theorem Cursor.landed_path (c : Cursor) (w : Walk) : ∀ f ∈ (c.landed w).path, f ∈ w.path := by
  rcases c.landed_cases w with ⟨-, h⟩ | ⟨code, -, h⟩ | ⟨-, h⟩ <;> rw [h] <;> simp

theorem Cursor.placed_path (c : Cursor) (w : Walk) (d : Nat) :
    (c.placed w d).path = (c.landed w).path := by
  unfold Cursor.placed
  dsimp only
  split <;> rfl

/-- A cursor that stood coherent at its place stays so after path work that leaves a path where nothing
stopped it. -/
theorem Cursor.landed_coherent {c : Cursor} {w : Walk} (hc : c.coherent) (hs : c.path ≠ [])
    (hy : c.state = .open → w.yielded = false ∨ w.stop ≠ none) (hl : w.path.length ≤ 4)
    (hw : w.stop = none → w.path ≠ []) : (c.landed w).coherent := by
  obtain ⟨h1, h2, h3, h4, h5, h6⟩ := hc
  rcases c.landed_cases w with ⟨h, e⟩ | ⟨code, h, e⟩ | ⟨h, e⟩ <;> rw [e]
  · have hn : c.state ≠ .closed ∧ c.state ≠ .detached ∧ c.state ≠ .faulted := by
      refine ⟨fun hh => hs (h2.2 (.inl hh)), fun hh => hs (h2.2 (.inr (.inl hh))),
        fun hh => hs (h2.2 (.inr (.inr hh)))⟩
    refine ⟨fun hh => absurd hh hn.1, ?_, h3, ?_, ?_, hl⟩
    · simp [hw h, hn]
    · intro hh
      rcases hy hh with hy | hy
      · simp [h4 hh, hy]
      · exact absurd h hy
    · intro hh; simp [h5 hh]
  · exact ⟨by simp, by simp, by simp, by simp, by simp, by simp⟩
  · exact ⟨by simp, by simp, by simp, by simp, by simp, by simp⟩

/-- A cursor placed by OPEN CURSOR or SEEK is coherent, whatever it was (R80, R81, R84, R86). -/
theorem Cursor.placed_coherent (c : Cursor) {w : Walk} (d : Nat) (hl : w.path.length ≤ 4)
    (hw : w.stop = none → w.path ≠ []) : (c.placed w d).coherent := by
  unfold Cursor.placed
  rcases c.landed_cases w with ⟨h, e⟩ | ⟨code, h, e⟩ | ⟨h, e⟩ <;> rw [e] <;> simp only [h]
  · by_cases hp : c.position = d
    · exact ⟨by simp [hp], by simp [hp, hw h], by simp [hp], by simp [hp], by simp [hp], hl⟩
    · cases hy : (c.yieldFlag || w.yielded) <;>
        refine ⟨?_, ?_, ?_, ?_, ?_, hl⟩ <;> simp [Cursor.playing, hp, hw h]
  · exact ⟨by simp, by simp, by simp, by simp, by simp, by simp⟩
  · exact ⟨by simp, by simp, by simp, by simp, by simp, by simp⟩

end Sys2Proof.Machine
end

