-- ==== Sys2Proof/Laws/Effects.lean ====
section
/-! SUPPORT. Everything the effect of a command on the state can be, one lemma for each kind of command:
the lookups, the change commands, the cursor commands, the volume commands and the settings. -/

namespace Sys2Proof.Machine

/-! ### The condition -/

/-- Noting a condition writes the resolution unit alone, and nothing without REPORT (R54). -/
theorem State.noteCondition_cases (s : State) (form : Byte) (c : Condition) (f : Sticky) :
    (reportForm form = false ∧ s.noteCondition form c f = s) ∨
    (reportForm form = true ∧ s.noteCondition form c f = s.withResolution (s.resolution.note c f)) := by
  cases h : reportForm form
  · exact .inl ⟨rfl, by simp [State.noteCondition, h]⟩
  · exact .inr ⟨rfl, by simp [State.noteCondition, h]⟩

/-- LOCATE writes the resolution unit alone (R77). -/
theorem State.locate_fst (s : State) (form : Byte) (a : Nat) (position : BitVec 40) (clearance : Byte) :
    (s.locate form a position clearance).1 = s ∨
    ∃ c f, (s.locate form a position clearance).1 = s.noteCondition form c f := by
  unfold State.locate
  split_ifs
  · exact .inl rfl
  · cases s.record? a with
    | none => exact .inl rfl
    | some r =>
      dsimp only
      split_ifs
      · exact .inl rfl
      · exact .inl rfl
      · cases placeTarget (strictForm form) position.toNat r.duration with
        | error c => exact .inr ⟨_, _, rfl⟩
        | ok pl =>
          simp only [State.locateAt]
          repeat' split
          all_goals first | exact .inl rfl | exact .inr ⟨_, _, rfl⟩

/-! ### The change commands -/

/-- A change command is refused, joins the deferral queue, or starts its commit (R134 to R140). -/
theorem State.acceptChange_cases (s : State) (c : Change) (strict : Bool) :
    (s.acceptChange c strict).1 = s ∨
    (s.passesChecks c strict ∧ s.blockedByFlight c = false ∧ c.deferrable s.store.records = true ∧
      0 < s.index.useCount c.accession ∧ s.queue.length < 8 ∧
      (s.acceptChange c strict).1 = (s.join c).proceed) ∨
    (s.passesChecks c strict ∧ s.engine.inFlight = none ∧
      (c.deferrable s.store.records = false ∨ s.index.useCount c.accession = 0) ∧
      c.slotsNeeded s.store.records ≤ s.index.vacantSlots ∧
      c.segmentsNeeded ≤ s.index.freeSegments ∧
      (s.acceptChange c strict).1 = s.startCommit c .direct) := by
  unfold State.acceptChange
  cases hf : s.engine.frozen
  case true => exact .inl (by simp)
  cases hp : s.protectsChange c
  case true => exact .inl (by simp)
  cases hr : s.recordRefusal c strict with
  | some code => exact .inl (by simp)
  | none =>
    cases hc : s.contentRefusal c with
    | some answer => exact .inl (by simp)
    | none =>
      cases he : s.entryRefusal c
      case true => exact .inl (by simp)
      have checks : s.passesChecks c strict := ⟨hf, hp, hr, hc, he⟩
      simp only [Bool.false_eq_true, if_false]
      unfold State.route
      cases hb : s.blockedByFlight c
      case true => exact .inl (by simp)
      simp only [Bool.false_eq_true, if_false]
      by_cases hd : (c.deferrable s.store.records && decide (0 < s.index.useCount c.accession)) = true
      · rw [if_pos hd]
        split
        · rename_i hq
          simp only [Bool.and_eq_true, decide_eq_true_eq] at hd
          exact .inr (.inl ⟨checks, by simp, hd.1, hd.2, hq, rfl⟩)
        · exact .inl rfl
      · rw [if_neg hd]
        split
        · exact .inl rfl
        · rename_i hcom
          split
          · exact .inl rfl
          · rename_i hsp
            refine .inr (.inr ⟨checks, ?_, ?_, ?_, ?_, rfl⟩)
            · simpa [State.committing] using hcom
            · cases h : c.deferrable s.store.records
              · exact .inl rfl
              · right; simp [h] at hd; omega
            · simp only [State.lacksSpace, decide_eq_true_eq] at hsp; omega
            · simp only [State.lacksSpace, decide_eq_true_eq] at hsp; omega

/-! ### The cursor commands -/

/-- The state after a cursor's path work: its new context, the notice of what stopped it, the condition,
and the settling that follows. -/
def State.afterPathWork (s : State) (n : Fin 16) (c : Cursor) (notices : Notices)
    (resolution : Resolution) : State :=
  (((s.setCursor n c).withNotices notices).withResolution resolution).settleAndProceed

theorem State.raiseStop_eq (s : State) (n : Fin 16) (stop : Option Stop) :
    ∃ m, s.raiseStop n stop = s.withNotices m ∧
      (s.latchSettled → (s.withNotices m).latchSettled) := by
  unfold State.raiseStop
  split
  · exact ⟨s.notices, rfl, id⟩
  · exact ⟨_, rfl, fun _ => Notices.testLatch_settled _ _⟩
  · exact ⟨_, rfl, fun _ => Notices.testLatch_settled _ _⟩

/-- Path work ends in `afterPathWork`, with notices that leave a settled latch settled. -/
theorem State.pathWork_eq (s : State) (n : Fin 16) (c : Cursor) (stop : Option Stop) (form : Byte)
    (k : Condition) (f : Sticky) : ∃ m r,
    (((s.setCursor n c).raiseStop n stop).noteCondition form k f).settleAndProceed =
      s.afterPathWork n c m r ∧ (s.latchSettled → (s.withNotices m).latchSettled) := by
  obtain ⟨m, hm, hl⟩ := (s.setCursor n c).raiseStop_eq n stop
  rw [hm]
  rcases ((s.setCursor n c).withNotices m).noteCondition_cases form k f with ⟨-, h⟩ | ⟨-, h⟩ <;> rw [h]
  · exact ⟨m, s.resolution, rfl, hl⟩
  · exact ⟨m, s.resolution.note k f, rfl, hl⟩

/-- OPEN CURSOR changes nothing, notes a condition, or opens the cursor on a record that stands and is not
WITHDRAWN (R84, R85). -/
theorem State.openCursor_cases (s : State) (form : Byte) (a position chunk clearance : Nat)
    (preference : CopyPreference) (trim : Int) (n : Fin 16) :
    let t := (s.openCursor form a position chunk clearance preference trim n).1
    t = s ∨ (∃ k f, t = s.noteCondition form k f) ∨
    ∃ r context p m res, (s.cursors.get n).state = .closed ∧ s.record? a = some r ∧
      r.state ≠ .withdrawn ∧ t = s.afterPathWork n
        (Cursor.placed context (buildPath (s.view clearance) a p) r.duration) m res ∧
      (s.latchSettled → (s.withNotices m).latchSettled) := by
  unfold State.openCursor
  dsimp only
  split
  · exact .inl rfl
  · rename_i hcl
    cases hr : s.record? a with
    | none => exact .inl rfl
    | some r =>
      dsimp only
      split
      · exact .inl rfl
      · rename_i hw
        split
        · exact .inl rfl
        · cases placeTarget (strictForm form) position r.duration with
          | error c => exact .inr (.inl ⟨_, _, rfl⟩)
          | ok pl =>
            dsimp only
            obtain ⟨m, res, h, hl⟩ := s.pathWork_eq n ((openedContext a pl.position
              (if chunk = 0 then s.settings.defaultChunk else chunk) clearance preference trim).placed
              (buildPath (s.view clearance) a pl.position) r.duration)
              (buildPath (s.view clearance) a pl.position).stop form pl.condition
              (Sticky.ofPosition pl.clamped)
            exact .inr (.inr ⟨r, _, pl.position, m, res, by simpa using hcl, rfl, hw, h, hl⟩)

/-- SEEK changes nothing, notes a condition, or places the cursor anew on a path built from its top
(R86). -/
theorem State.seek_cases (s : State) (form kind : Byte) (value : BitVec 40) (n : Fin 16) :
    let t := (s.seek form kind value n).1
    let c := s.cursors.get n
    t = s ∨ (∃ k f, t = s.noteCondition form k f) ∨
    ∃ p moved m res, c.state ≠ .closed ∧ c.state ≠ .detached ∧
      ((∃ r context, s.record? c.top = some r ∧ moved =
          Cursor.placed context (buildPath (s.view c.clearance) c.top p) r.duration) ∨
        (s.record? c.top = none ∧
          moved = (c.sought p).landed (buildPath (s.view c.clearance) c.top p))) ∧
      t = s.afterPathWork n moved m res ∧ (s.latchSettled → (s.withNotices m).latchSettled) := by
  dsimp only
  unfold State.seek
  dsimp only
  split
  · exact .inl rfl
  · rename_i hcl
    rw [not_or] at hcl
    cases hr : s.record? (s.cursors.get n).top with
    | none =>
      dsimp only
      obtain ⟨m, res, h, hl⟩ := s.pathWork_eq n (((s.cursors.get n).sought (s.cursors.get n).position).landed
        (buildPath (s.view (s.cursors.get n).clearance) (s.cursors.get n).top (s.cursors.get n).position))
        (buildPath (s.view (s.cursors.get n).clearance) (s.cursors.get n).top
          (s.cursors.get n).position).stop form .none Sticky.none
      exact .inr (.inr ⟨_, _, m, res, hcl.1, hcl.2, .inr ⟨rfl, rfl⟩, h, hl⟩)
    | some r =>
      dsimp only
      cases placeTarget (strictForm form) ((seekTarget kind value (s.cursors.get n).position).getD 0)
          r.duration with
      | error side => exact .inr (.inl ⟨_, _, rfl⟩)
      | ok pl =>
        dsimp only
        obtain ⟨m, res, h, hl⟩ := s.pathWork_eq n (((s.cursors.get n).sought pl.position).placed
          (buildPath (s.view (s.cursors.get n).clearance) (s.cursors.get n).top pl.position) r.duration)
          (buildPath (s.view (s.cursors.get n).clearance) (s.cursors.get n).top pl.position).stop form
          pl.condition (Sticky.ofPosition pl.clamped)
        exact .inr (.inr ⟨_, _, m, res, hcl.1, hcl.2, .inl ⟨r, _, rfl, rfl⟩, h, hl⟩)

/-- FETCH changes nothing on a CLOSED cursor, and otherwise leaves the cursor that `fetched` gives
(R89). -/
theorem State.fetch_cases (s : State) (form : Byte) (n : Fin 16) :
    let t := (s.fetch form n).1
    let c := s.cursors.get n
    (c.state = .closed ∧ t = s) ∨
    ∃ m res, c.state ≠ .closed ∧ t = s.afterPathWork n
        (({ c with sequence := c.sequence + 1#16 } : Cursor).fetched (s.view c.clearance) s.volumes
          n).cursor m res ∧ (s.latchSettled → (s.withNotices m).latchSettled) := by
  dsimp only
  unfold State.fetch
  dsimp only
  split
  · exact .inl ⟨by assumption, rfl⟩
  · rename_i hcl
    generalize Cursor.fetched _ _ _ _ = r
    right
    obtain ⟨m, hm, hl⟩ := (s.setCursor n r.cursor).raiseStop_eq n r.stop
    rw [hm]
    split
    · rcases (((s.setCursor n r.cursor).withNotices m).raise (.cursorStalled n)).noteCondition_cases form
        r.descriptor.kind.condition (r.descriptor.sticky r.raw false) with ⟨-, h⟩ | ⟨-, h⟩ <;> rw [h]
      · exact ⟨((s.withNotices m).raise (.cursorStalled n)).notices, s.resolution, hcl, rfl,
          fun _ => Notices.testLatch_settled _ _⟩
      · exact ⟨((s.withNotices m).raise (.cursorStalled n)).notices, _, hcl, rfl,
          fun _ => Notices.testLatch_settled _ _⟩
    · rcases ((s.setCursor n r.cursor).withNotices m).noteCondition_cases form
        r.descriptor.kind.condition (r.descriptor.sticky r.raw false) with ⟨-, h⟩ | ⟨-, h⟩ <;> rw [h]
      · exact ⟨m, s.resolution, hcl, rfl, hl⟩
      · exact ⟨m, _, hcl, rfl, hl⟩

/-- CLOSE CURSOR changes nothing on a CLOSED cursor, and otherwise clears the context (R104). -/
theorem State.closeCursor_cases (s : State) (n : Fin 16) :
    let t := (s.closeCursor n).1
    ((s.cursors.get n).state = .closed ∧ t = s) ∨
    ((s.cursors.get n).state ≠ .closed ∧
      t = s.afterPathWork n Cursor.closed s.notices s.resolution) := by
  dsimp only
  unfold State.closeCursor
  split
  · exact .inl ⟨by assumption, rfl⟩
  · exact .inr ⟨by assumption, rfl⟩

/-- SET LOOP changes nothing, notes a condition, or sets the region (R88). -/
theorem State.setLoop_cases (s : State) (form : Byte) (start length : Nat) (n : Fin 16) :
    let t := (s.setLoop form start length n).1
    t = s ∨ (∃ k f, t = s.noteCondition form k f) ∨
    ∃ region k f, (s.cursors.get n).state ≠ .closed ∧ (s.cursors.get n).state ≠ .detached ∧
      t = (s.setCursor n { s.cursors.get n with loop := some region }).noteCondition form k f := by
  dsimp only
  unfold State.setLoop
  dsimp only
  split
  · exact .inl rfl
  · rename_i hcl
    rw [not_or] at hcl
    cases s.record? (s.cursors.get n).top with
    | none => exact .inl rfl
    | some r =>
      dsimp only
      cases placeLoop (strictForm form) start length r.duration with
      | error side => exact .inr (.inl ⟨_, _, rfl⟩)
      | ok pl => exact .inr (.inr ⟨_, _, _, hcl.1, hcl.2, rfl⟩)

/-- CLEAR LOOP changes nothing, or clears the region (R88). -/
theorem State.clearLoop_cases (s : State) (n : Fin 16) :
    (s.clearLoop n).1 = s ∨
    ((s.cursors.get n).state ≠ .closed ∧ (s.cursors.get n).state ≠ .detached ∧
      (s.clearLoop n).1 = s.setCursor n { s.cursors.get n with loop := none }) := by
  unfold State.clearLoop
  dsimp only
  split
  · exact .inl rfl
  · rename_i hcl
    rw [not_or] at hcl
    exact .inr ⟨hcl.1, hcl.2, rfl⟩

/-- A cursor command changes nothing, or is its block's effect on the cursor it names. -/
theorem onCursor_fst (cursor : Byte) (inRange : Bool) (body : Fin 16 → State → State × Response)
    (s : State) : (onCursor cursor inRange body s).1 = s ∨
      ∃ n : Fin 16, cursor.toNat = n.val ∧ (onCursor cursor inRange body s).1 = (body n s).1 := by
  unfold onCursor cursorOf
  by_cases h : cursor.toNat < 16
  · simp only [h, dite_true]
    cases inRange
    · exact .inl rfl
    · exact .inr ⟨⟨cursor.toNat, h⟩, rfl, rfl⟩
  · simp [h]

/-- The cursor a byte names. -/
theorem cursorOf_eq {cursor : Byte} {n : Fin 16} (h : cursor.toNat = n.val) : cursorOf cursor = some n := by
  unfold cursorOf
  rw [dif_pos (by omega)]
  simp [h]

/-- The volume a byte names. -/
theorem volumeOf_eq {volume : Byte} {v : Fin 64} (h : volume.toNat = v.val) : volumeOf volume = some v := by
  unfold volumeOf
  rw [dif_pos (by omega)]
  simp [h]

/-- A cursor command on the cursor it names, its arguments in range. -/
theorem onCursor_eq {cursor : Byte} {n : Fin 16} (h : cursor.toNat = n.val)
    (body : Fin 16 → State → State × Response) (s : State) : onCursor cursor true body s = body n s := by
  simp [onCursor, cursorOf_eq h]

/-! ### The volume commands -/

/-- A volume command changes nothing, or makes its move on the volume it names (R114). -/
theorem State.volumeCommand_cases (s : State) (volume : Byte) (inRange : Bool)
    (move : Fin 64 → Volume → Option VolumeMove) :
    (s.volumeCommand volume inRange move).1 = s ∨
    ∃ v m, volume.toNat = v.val ∧ (s.volumes.get v).health ≠ .unregistered ∧
      move v (s.volumes.get v) = some m ∧ (s.volumeCommand volume inRange move).1 = s.moveVolume v m := by
  unfold State.volumeCommand
  by_cases hb : volume.toNat < 64
  · rw [volumeOf_eq (v := ⟨volume.toNat, hb⟩) rfl]
    dsimp only
    split
    · split
      · exact .inl rfl
      · rename_i hu
        cases hm : move ⟨volume.toNat, hb⟩ (s.volumes.get ⟨volume.toNat, hb⟩) with
        | none => exact .inl rfl
        | some m => exact .inr ⟨_, m, rfl, hu, hm, rfl⟩
    · exact .inl rfl
  · simp [volumeOf, hb]

/-- A volume command on the registered volume it names, its arguments in range (R114). -/
theorem State.volumeCommand_eq {s : State} {volume : Byte} {v : Fin 64}
    {move : Fin 64 → Volume → Option VolumeMove} (h : volume.toNat = v.val)
    (hu : (s.volumes.get v).health ≠ .unregistered) : s.volumeCommand volume true move =
      match move v (s.volumes.get v) with
      | none => (s, ⟨.volumeState, []⟩)
      | some m => (s.moveVolume v m, ⟨.ok, m.entry.bytes⟩) := by
  cases hm : move v (s.volumes.get v) <;>
    simp [State.volumeCommand, volumeOf_eq h, hu, hm, Response.bare]

/-! ### The settings -/

/-- What a SET SETTING leaves: nothing changed, or the setting written, with the block's own action
(R205). -/
theorem State.setSetting_cases (s : State) (number volume : Byte) (value : BitVec 32) :
    let t := (s.setSetting number volume value).1
    t = s ∨ ∃ name v, settingNamed number volume = some (name, v) ∧ name.admits value.toNat = true ∧
      t = (s.withSettings (s.settings.write v value.toNat name)).settingActs name v := by
  dsimp only
  unfold State.setSetting
  cases hn : settingNamed number volume with
  | none => exact .inl rfl
  | some x =>
    obtain ⟨name, v⟩ := x
    dsimp only
    split
    · rename_i ha
      unfold State.writeSetting
      dsimp only
      split
      · exact .inl rfl
      · exact .inr ⟨name, v, rfl, ha, rfl⟩
    · exact .inl rfl

/-! ### The ends of a commit -/

/-- A deferral entry leaves with a QUEUE change, and nothing changes with a DIRECT one. -/
theorem State.releaseEntry_cases (s : State) (f : InFlight) :
    (f.source = .direct ∧ s.releaseEntry f = s) ∨
    (f.source = .queue ∧ s.releaseEntry f = s.removeEntry f.change.accession) := by
  cases h : f.source
  · exact .inl ⟨rfl, by simp [State.releaseEntry, h]⟩
  · exact .inr ⟨rfl, by simp [State.releaseEntry, h]⟩

/-- A change's new version in force, where it is no CLEAR HOLDINGS (R144). -/
theorem State.install_of_ne {s : State} {c : Change} (h : c.kind ≠ .clearHoldings) : s.install c =
    ((s.withStore (c.applyStore s.store)).withIndex
      (s.index.advanced c s.store.records (c.applyRecords s.store.records))).withCursors
        (s.cursors.map fun x => x.clampedTo c.accession (c.applyRecords s.store.records)) := by
  cases c <;> first | rfl | simp [Change.kind] at h

/-- What follows the end of a commit: a pending soft reset, or the engine proceeding (R148, R154). -/
theorem State.afterCompletion_cases (s : State) :
    (s.resetPending = true ∧ s.afterCompletion = s.softReset) ∨
    (s.resetPending = false ∧ s.afterCompletion = s.proceed) := by
  cases h : s.resetPending
  · exact .inr ⟨rfl, by simp [State.afterCompletion, h]⟩
  · exact .inl ⟨rfl, by simp [State.afterCompletion, h]⟩

/-- Every clamp leaves a cursor's state, path, yield flag and fault code. -/
theorem Cursor.clampedTo_cases (c : Cursor) (a : Nat) (records : List ItemRecord) :
    c.clampedTo a records = c ∨ ∃ p, c.state ≠ .closed ∧
      c.clampedTo a records = { c with position := p, clampNote := true } := by
  unfold Cursor.clampedTo
  split
  · rename_i h
    split
    · split
      · exact .inr ⟨_, h.1, rfl⟩
      · exact .inl rfl
    · exact .inl rfl
  · exact .inl rfl

@[simp] theorem Cursor.clampedTo_path (c : Cursor) (a : Nat) (records : List ItemRecord) :
    (c.clampedTo a records).path = c.path := by
  rcases c.clampedTo_cases a records with h | ⟨p, -, h⟩ <;> rw [h]

/-! ### Expiries -/

/-- An expiry changes nothing, or makes its move on a volume whose interval has run to its end. -/
theorem State.expire_cases (s : State) (v : Fin 64) (i : Interval) :
    s.expire v i = s ∨ ((s.volumes.get v).timer = .running i 0 ∧ s.expire v i =
      s.moveVolume v ((s.volumes.get v).expire i s.settings (s.policyOf v) v)) := by
  unfold State.expire
  split
  · exact .inr ⟨by assumption, rfl⟩
  · exact .inl rfl

end Sys2Proof.Machine
end

