-- ==== Sys2Proof/Laws/Commits.lean ====
section
/-! SUPPORT. What a completed change makes of a catalogue: its order, the records that stand after it, and
the slots and segments it takes and gives back. -/

namespace Sys2Proof.Machine

/-- A rewriting of one record keeps the order of the catalogue. -/
theorem modifyRecord_pairwise {l : List ItemRecord} (h : l.Pairwise (fun a b => a.accession < b.accession))
    {a : Nat} {f : ItemRecord → ItemRecord} (hf : ∀ r, r.accession = a → (f r).accession = a) :
    (modifyRecord a f l).Pairwise (fun a b => a.accession < b.accession) := by
  rw [← List.pairwise_map (f := fun r : ItemRecord => r.accession) (R := fun a b => a < b),
    modifyRecord_accessions hf, List.pairwise_map]
  exact h

/-- A completed change keeps the catalogue in ascending accession (R13, R144). -/
theorem Change.applyRecords_pairwise (c : Change) {l : List ItemRecord}
    (h : l.Pairwise (fun a b => a.accession < b.accession)) :
    (c.applyRecords l).Pairwise (fun a b => a.accession < b.accession) := by
  cases c <;> simp only [Change.applyRecords]
  · split
    · exact insertRecord_pairwise h (by assumption)
    · exact modifyRecord_pairwise h fun _ _ => rfl
  · exact modifyRecord_pairwise h fun _ hr => hr
  · exact modifyRecord_pairwise h fun _ hr => hr
  · exact modifyRecord_pairwise h fun _ hr => hr
  · exact modifyRecord_pairwise h fun _ hr => hr
  · exact h.filter _
  · exact h.filter _
  · exact h

/-- Rewriting a record that does not stand changes nothing. -/
theorem modifyRecord_of_none {a : Nat} {f : ItemRecord → ItemRecord} {l : List ItemRecord}
    (h : findRecord l a = none) : modifyRecord a f l = l := by
  rw [findRecord_eq_none] at h
  rw [modifyRecord, List.map_congr_left (g := id), List.map_id]
  intro r hr
  rw [if_neg (h r hr)]; rfl

/-- An amended list has the run's segments in place of those it covered (R32). -/
theorem length_amendedSegments (l : List Segment) (first k : Nat) (run : List WireSegment) :
    (amendedSegments l first k run).length + ((l.drop first).take k).length =
      l.length + run.length := by
  simp [amendedSegments]; omega

theorem segmentsOwned_filter (l : List ItemRecord) (p : ItemRecord → Bool) :
    segmentsOwned (l.filter p) + segmentsOwned (l.filter fun r => !p r) = segmentsOwned l := by
  induction l with
  | nil => rfl
  | cons x rest ih => cases hp : p x <;> simp [segmentsOwned, hp] at ih ⊢ <;> omega

theorem segmentsOwned_filter_ne {l : List ItemRecord}
    (h : l.Pairwise (fun a b => a.accession < b.accession)) (a : Nat) :
    segmentsOwned (l.filter fun r => r.accession ≠ a)
      + ((findRecord l a).map (·.segments.length)).getD 0 = segmentsOwned l := by
  induction l with
  | nil => simp [segmentsOwned, findRecord]
  | cons x rest ih =>
    have ih := ih (List.Pairwise.of_cons h)
    by_cases hx : x.accession = a
    · have hn : findRecord rest a = none := by
        rw [findRecord_eq_none]; intro r hr
        have := List.rel_of_pairwise_cons h hr; omega
      rw [hn] at ih
      simp [segmentsOwned, hx, findRecord] at ih ⊢; omega
    · simp [segmentsOwned, hx, findRecord] at ih ⊢; omega

/-- The slots in use after a change, with those it frees, are those in use before, with those it needs
(R10, R35). -/
theorem Change.slots_conserved (c : Change) (l : List ItemRecord) :
    (c.applyRecords l).length + c.slotsFreed l = l.length + c.slotsNeeded l := by
  cases c <;> simp only [Change.applyRecords, Change.slotsFreed, Change.slotsNeeded]
  · split <;> rename_i hh <;> simp [hh]
  · simp
  · simp
  · simp
  · simp
  · rename_i a
    have := List.length_filter_le (fun r : ItemRecord => decide (r.accession ≠ a)) l; omega
  · have := List.length_filter_le (fun r : ItemRecord => decide (r.state = .certified)) l; omega

/-- The segments owned after a change, with those it frees, are those owned before, with those it needs,
for an amendment where its record stands (R34 to R36). -/
theorem Change.segments_conserved (c : Change) {l : List ItemRecord}
    (h : l.Pairwise (fun a b => a.accession < b.accession))
    (ha : c.kind = .amendSegments → (findRecord l c.accession).isSome = true) :
    segmentsOwned (c.applyRecords l) + c.segmentsFreed l = segmentsOwned l + c.segmentsNeeded := by
  have modify : ∀ (a : Nat) (f : ItemRecord → ItemRecord) r, findRecord l a = some r →
      segmentsOwned (modifyRecord a f l) + r.segments.length = segmentsOwned l + (f r).segments.length :=
    fun a f r hr => segmentsOwned_modifyRecord h hr
  cases c <;> simp only [Change.applyRecords, Change.segmentsFreed, Change.segmentsNeeded]
  case writeItem hd segs =>
    cases hf : findRecord l hd.accession.toNat with
    | none => simp [recordOfHeader]
    | some r =>
      have := modify _ (fun r => recordOfHeader hd segs (r.revision + 1#16)) r hf
      simp [recordOfHeader] at this ⊢; omega
  case amendSegments a first k m run =>
    obtain ⟨r, hr⟩ := Option.isSome_iff_exists.1 (ha rfl)
    have hr : findRecord l a = some r := hr
    have := modify a (fun r => { r.revised with segments := amendedSegments r.segments first k run }) r hr
    have := length_amendedSegments r.segments first k run
    rw [hr]; simp only [Option.map_some, Option.getD_some] at *; omega
  case setItemFields a f =>
    cases hr : findRecord l a with
    | none => rw [modifyRecord_of_none hr]
    | some r =>
      have := modify a (fun r => r.revised.withFields f) r hr
      simp [ItemRecord.withFields, ItemRecord.revised] at this ⊢; omega
  case certifyItem a =>
    cases hr : findRecord l a with
    | none => rw [modifyRecord_of_none hr]
    | some r =>
      have := modify a (fun r => { r.revised with state := .certified }) r hr
      simp [ItemRecord.revised] at this ⊢; omega
  case retireItem a successor =>
    cases hr : findRecord l a with
    | none => rw [modifyRecord_of_none hr]; simp
    | some r =>
      have := modify a (fun r => { r.revised with
        state := .withdrawn
        successor := if successor = 0 then none else some successor
        segments := [] }) r hr
      simp at this ⊢; omega
  case purgeItem a => exact segmentsOwned_filter_ne h a
  case clearHoldings =>
    simpa using segmentsOwned_filter l fun r => decide (r.state = .certified)

/-- A record stands after a change as it stood before, unless it is purged or cleared (R144, R145). -/
theorem Change.applyRecords_isSome (c : Change) {l : List ItemRecord} {b : Nat}
    (h1 : c.kind ≠ .clearHoldings) (h2 : c.kind = .purgeItem → b ≠ c.accession)
    (hb : (findRecord l b).isSome = true) : (findRecord (c.applyRecords l) b).isSome = true := by
  have modify : ∀ (a : Nat) (f : ItemRecord → ItemRecord),
      (∀ r : ItemRecord, r.accession = a → (f r).accession = a) →
      (findRecord (modifyRecord a f l) b).isSome = true := by
    intro a f hf
    rw [findRecord_modifyRecord hf]
    split
    · rename_i e; subst e; simpa using hb
    · exact hb
  cases c <;> simp only [Change.applyRecords]
  · split
    · rename_i hn
      rw [findRecord_insertRecord (by exact hn)]
      split
      · rfl
      · exact hb
    · exact modify _ _ fun _ _ => rfl
  · exact modify _ _ fun _ hr => hr
  · exact modify _ _ fun _ hr => hr
  · exact modify _ _ fun _ hr => hr
  · exact modify _ _ fun _ hr => hr
  · rw [findRecord_filter_ne, if_neg (by simpa [Change.accession] using h2 rfl)]; exact hb
  · exact absurd rfl h1
  · exact hb

/-- A deferrable change needs no slot, and is no CLEAR HOLDINGS and no purge (R133). -/
theorem Change.deferrable_cases {c : Change} {l : List ItemRecord} (h : c.deferrable l = true) :
    c.slotsNeeded l = 0 ∧ c.kind ≠ .clearHoldings ∧ c.kind ≠ .purgeItem := by
  cases c <;> simp_all [Change.deferrable, Change.slotsNeeded, Change.kind]

/-- A take that passes its re-checks has the segments it needs (R150). -/
theorem State.recheck_space {s : State} {e : Entry} (h : s.recheck e = none) :
    e.payload.segmentsNeeded ≤ s.index.freeSegments := by
  unfold State.recheck at h
  split at h
  · simp at h
  · split at h
    · simp at h
    · omega

/-- The version in force, index and free lists after an install; the change in flight, the queue's entries
and whether the part has started are as they were (R144). -/
theorem State.install_core (s : State) (c : Change) :
    (s.install c).starting = s.starting ∧ (s.install c).store = c.applyStore s.store ∧
    (s.install c).index.entries.map (·.accession) =
      (c.applyRecords s.store.records).map (·.accession) ∧
    (s.install c).index.carriers = carriersOf (c.applyRecords s.store.records) ∧
    (s.install c).index.vacantSlots = s.index.vacantSlots + c.slotsFreed s.store.records ∧
    (s.install c).index.freeSegments = s.index.freeSegments + c.segmentsFreed s.store.records ∧
    (s.install c).engine = s.engine ∧ (s.install c).resetPending = s.resetPending ∧
    (s.install c).queue.map (fun e => (e.accession, e.payload)) =
      s.queue.map (fun e => (e.accession, e.payload)) := by
  by_cases hk : c.kind = .clearHoldings
  · cases c <;> simp [Change.kind] at hk
    simp only [State.install, State.dropRemoved_eq]
    refine ⟨?_, ?_, by simp [State.settleCounts, Index.advanced], ?_, ?_, ?_, ?_, ?_, ?_⟩ <;>
      simp [State.settleCounts, Index.advanced, Index.counted]
  · rw [State.install_of_ne hk]
    exact ⟨rfl, rfl, by simp [Index.advanced], rfl, rfl, rfl, rfl, rfl, rfl⟩

/-- Every entry of a catalogue's accession index is the one it had, or a new one of count 0 (R144). -/
theorem mem_entriesOf {old : Index} {l : List ItemRecord} {e : IndexEntry} (he : e ∈ entriesOf old l) :
    ∃ r ∈ l, e.accession = r.accession ∧
      (e ∈ old.entries ∨ (old.entry? r.accession = none ∧ e.useCount = 0)) := by
  obtain ⟨r, hr, rfl⟩ := List.mem_map.1 he
  refine ⟨r, hr, ?_⟩
  cases hx : old.entry? r.accession with
  | none => exact ⟨rfl, .inr ⟨rfl, rfl⟩⟩
  | some x => exact ⟨by simpa using List.find?_some hx, .inl (List.mem_of_find?_eq_some hx)⟩

/-- A record that stands has its index entry, once the part has started (R13). -/
theorem State.entry_of_record {s : State} (h : s.catalogueKept) (hs : s.starting = false) {a : Nat}
    {r : ItemRecord} (hr : s.record? a = some r) :
    ∃ e, s.index.entry? a = some e ∧ e ∈ s.index.entries ∧ e.accession = a := by
  have : a ∈ s.index.entries.map (·.accession) := by
    rw [(h.2 hs).1]; exact List.mem_map.2 ⟨r, findRecord_mem hr, findRecord_accession hr⟩
  obtain ⟨e, he, ea⟩ := List.mem_map.1 this
  cases hx : s.index.entry? a with
  | none =>
    simp only [Index.entry?, List.find?_eq_none] at hx
    exact absurd (by simpa using ea) (hx e he)
  | some x => exact ⟨x, rfl, List.mem_of_find?_eq_some hx, by simpa using List.find?_some hx⟩

/-- The frames of a cursor after a FETCH name what its frames named, or a record that stands and is not
WITHDRAWN (R69, R76, R94). -/
theorem Cursor.fetched_path (c : Cursor) (v : PathView) (volumes : Table Volume 64) (n : Fin 16) :
    ∀ f ∈ (c.fetched v volumes n).cursor.path,
      (∃ g ∈ c.path, f.accession = g.accession) ∨ standing v.records f.accession := by
  have current : ∀ (d : Cursor) r,
      (∀ f ∈ d.path, (∃ g ∈ c.path, f.accession = g.accession) ∨ standing v.records f.accession) →
      ∀ f ∈ (d.fetchCurrent v volumes n r).cursor.path,
        (∃ g ∈ c.path, f.accession = g.accession) ∨ standing v.records f.accession := by
    intro d r hd
    unfold Cursor.fetchCurrent
    dsimp only
    split
    · exact hd
    · unfold Cursor.fetchSpan
      dsimp only
      split
      · exact hd
      · unfold Cursor.moved
        dsimp only
        split
        · rename_i l _
          have hb := (buildPath_path v d.top l.start).2.1
          intro f hf
          refine .inr (hb f ?_)
          split at hf <;> exact Cursor.landed_path _ _ f hf
        · generalize d.spanEnd v.records _ = stop
          intro f hf
          have hf' : f ∈ (advancePath v d.path stop).path := by
            split at hf <;> exact Cursor.landed_path _ _ f hf
          rcases (advancePath_path v d.path stop).2.1 f hf' with ⟨g, hg, e⟩ | hs
          · rw [e]; exact hd g hg
          · exact .inr hs
  have self : ∀ f ∈ c.path,
      (∃ g ∈ c.path, f.accession = g.accession) ∨ standing v.records f.accession :=
    fun f hf => .inl ⟨f, hf, rfl⟩
  unfold Cursor.fetched
  split
  · exact self
  · split
    · exact self
    · split
      · exact current c false self
      · dsimp only
        have hb := (buildPath_path v c.top c.position).2.1
        have hl : ∀ f ∈ (({ c with lastCopy := none } : Cursor).landed
            (buildPath v c.top c.position)).path,
            (∃ g ∈ c.path, f.accession = g.accession) ∨ standing v.records f.accession :=
          fun f hf => .inr (hb f (Cursor.landed_path _ _ f hf))
        split
        · exact hl
        · exact hl
        · exact current _ true hl

end Sys2Proof.Machine
end

