-- ==== Sys2Proof/Laws/PerInstr.lean ====
section
/-! SUPPORT. How long a command's frame is, command by command. -/

namespace Sys2Proof.Laws

/-- A well-formed command with a form byte is sent as its code byte, its form byte and exactly as many
argument bytes as the part waits for, and every other command has none (R181, R211, R212). -/
def FrameBytes.Statement (i : Instr) : Prop :=
  i.wellFormed = true →
    (∀ form, i.form = some form → ∃ code, i.code = some code ∧ knownCode code = true ∧
      i.frameBytes = code :: form :: i.arguments ∧
      argumentLength code i.arguments = some i.arguments.length) ∧
    (i.form = none → i.arguments = [])

/-- A command of a code whose argument length is fixed. -/
theorem frame_of_code {i : Instr} {code form : Byte} (hf : i.form = some form) (hk : knownCode code = true)
    (hc : i.code = some code) (hl : argumentLength code i.arguments = some i.arguments.length) :
    FrameBytes.Statement i := by
  intro _
  refine ⟨fun f h => ⟨code, hc, hk, ?_, hl⟩, by simp [hf]⟩
  have : form = f := by simpa [hf] using h
  simp [Instr.frameBytes, hc, hf, this]

/-- A command without a form byte. -/
theorem no_form {i : Instr} (hf : i.form = none) (ha : i.arguments = []) : FrameBytes.Statement i :=
  fun _ => ⟨by simp [hf], fun _ => ha⟩

theorem FrameBytes.readItem (form : Byte) (accession : BitVec 24) :
    FrameBytes.Statement (.readItem form accession) :=
  frame_of_code rfl (by decide) rfl
    (by simp [Instr.arguments, argumentLength])

theorem FrameBytes.readSegments (form : Byte) (accession : BitVec 24) (first maximum : Byte) :
    FrameBytes.Statement (.readSegments form accession first maximum) :=
  frame_of_code rfl (by decide) rfl
    (by simp [Instr.arguments, argumentLength])

theorem FrameBytes.enumerate (form : Byte) (start : BitVec 24) (mask maximum : Byte) :
    FrameBytes.Statement (.enumerate form start mask maximum) :=
  frame_of_code rfl (by decide) rfl
    (by simp [Instr.arguments, argumentLength])

theorem FrameBytes.findCarrier (form : Byte)
    (carrierId : BitVec 32) (kindFilter startSide startTrack : Byte) (startAccession : BitVec 24) (maximum : Byte) :
    FrameBytes.Statement (.findCarrier form carrierId kindFilter startSide startTrack startAccession maximum) :=
  frame_of_code rfl (by decide) rfl
    (by simp [Instr.arguments, argumentLength])

theorem FrameBytes.locate (form : Byte)
    (accession : BitVec 24) (position : BitVec 40) (clearance : Byte) :
    FrameBytes.Statement (.locate form accession position clearance) :=
  frame_of_code rfl (by decide) rfl
    (by simp [Instr.arguments, argumentLength])

theorem FrameBytes.writeItem (form : Byte) (header : WireHeader) (segments : List WireSegment) :
    FrameBytes.Statement (.writeItem form header segments) :=
  by
  intro h
  have h : segments.length = expectedSegments header.segmentCount := by
    simpa [Instr.wellFormed] using h
  refine ⟨fun f hf => ⟨0x20, rfl, by decide, ?_, ?_⟩, by simp [Instr.form]⟩
  · cases hf; rfl
  · simp [Instr.arguments, argumentLength, segmentCount_field, h]; omega

theorem FrameBytes.amendSegments (form : Byte)
    (accession : BitVec 24) (first oldCount newCount : Byte) (run : List WireSegment) :
    FrameBytes.Statement (.amendSegments form accession first oldCount newCount run) :=
  by
  intro h
  have h : run.length = expectedSegments newCount := by simpa [Instr.wellFormed] using h
  refine ⟨fun f hf => ⟨0x21, rfl, by decide, ?_, ?_⟩, by simp [Instr.form]⟩
  · cases hf; rfl
  · have e : fieldOf 8 5 1 (Instr.arguments (.amendSegments form accession first oldCount newCount run))
        = newCount := fieldOf_byte rfl
    rw [show argumentLength (0x21 : Byte) = fun a => some (6 + 48 * expectedSegments (fieldOf 8 5 1 a))
      from rfl]
    simp only [e]
    simp [Instr.arguments, h]; omega

theorem FrameBytes.setItemFields (form : Byte) (accession : BitVec 24) (fields : WireFields) :
    FrameBytes.Statement (.setItemFields form accession fields) :=
  frame_of_code rfl (by decide) rfl
    (by simp [Instr.arguments, argumentLength])

theorem FrameBytes.certifyItem (form : Byte) (accession : BitVec 24) :
    FrameBytes.Statement (.certifyItem form accession) :=
  frame_of_code rfl (by decide) rfl
    (by simp [Instr.arguments, argumentLength])

theorem FrameBytes.retireItem (form : Byte) (accession successor : BitVec 24) :
    FrameBytes.Statement (.retireItem form accession successor) :=
  frame_of_code rfl (by decide) rfl
    (by simp [Instr.arguments, argumentLength])

theorem FrameBytes.purgeItem (form : Byte) (accession : BitVec 24) :
    FrameBytes.Statement (.purgeItem form accession) :=
  frame_of_code rfl (by decide) rfl
    (by simp [Instr.arguments, argumentLength])

theorem FrameBytes.clearHoldings (form : Byte) :
    FrameBytes.Statement (.clearHoldings form) :=
  frame_of_code rfl (by decide) rfl
    (by simp [Instr.arguments, argumentLength])

theorem FrameBytes.storeSettings (form : Byte) :
    FrameBytes.Statement (.storeSettings form) :=
  frame_of_code rfl (by decide) rfl
    (by simp [Instr.arguments, argumentLength])

theorem FrameBytes.cancelPending (form : Byte) (accession : BitVec 24) :
    FrameBytes.Statement (.cancelPending form accession) :=
  frame_of_code rfl (by decide) rfl
    (by simp [Instr.arguments, argumentLength])

theorem FrameBytes.readPending (form : Byte) :
    FrameBytes.Statement (.readPending form) :=
  frame_of_code rfl (by decide) rfl
    (by simp [Instr.arguments, argumentLength])

theorem FrameBytes.freeze (form : Byte) :
    FrameBytes.Statement (.freeze form) :=
  frame_of_code rfl (by decide) rfl
    (by simp [Instr.arguments, argumentLength])

theorem FrameBytes.thaw (form : Byte) :
    FrameBytes.Statement (.thaw form) :=
  frame_of_code rfl (by decide) rfl
    (by simp [Instr.arguments, argumentLength])

theorem FrameBytes.openCursor (form cursor : Byte)
    (accession : BitVec 24) (position : BitVec 40) (chunk : BitVec 24) (clearance preference : Byte) (trim : BitVec 16) :
    FrameBytes.Statement (.openCursor form cursor accession position chunk clearance preference trim) :=
  frame_of_code rfl (by decide) rfl
    (by simp [Instr.arguments, argumentLength])

theorem FrameBytes.seek (form cursor kind : Byte) (value : BitVec 40) :
    FrameBytes.Statement (.seek form cursor kind value) :=
  frame_of_code rfl (by decide) rfl
    (by simp [Instr.arguments, argumentLength])

theorem FrameBytes.setLoop (form cursor : Byte) (start length : BitVec 40) :
    FrameBytes.Statement (.setLoop form cursor start length) :=
  frame_of_code rfl (by decide) rfl
    (by simp [Instr.arguments, argumentLength])

theorem FrameBytes.clearLoop (form cursor : Byte) :
    FrameBytes.Statement (.clearLoop form cursor) :=
  frame_of_code rfl (by decide) rfl
    (by simp [Instr.arguments, argumentLength])

theorem FrameBytes.fetch (form cursor : Byte) :
    FrameBytes.Statement (.fetch form cursor) :=
  frame_of_code rfl (by decide) rfl
    (by simp [Instr.arguments, argumentLength])

theorem FrameBytes.closeCursor (form cursor : Byte) :
    FrameBytes.Statement (.closeCursor form cursor) :=
  frame_of_code rfl (by decide) rfl
    (by simp [Instr.arguments, argumentLength])

theorem FrameBytes.readCursor (form cursor : Byte) :
    FrameBytes.Statement (.readCursor form cursor) :=
  frame_of_code rfl (by decide) rfl
    (by simp [Instr.arguments, argumentLength])

theorem FrameBytes.reportFault (form volume : Byte) :
    FrameBytes.Statement (.reportFault form volume) :=
  frame_of_code rfl (by decide) rfl
    (by simp [Instr.arguments, argumentLength])

theorem FrameBytes.probeResult (form volume result : Byte) :
    FrameBytes.Statement (.probeResult form volume result) :=
  frame_of_code rfl (by decide) rfl
    (by simp [Instr.arguments, argumentLength])

theorem FrameBytes.probeVolume (form volume : Byte) :
    FrameBytes.Statement (.probeVolume form volume) :=
  frame_of_code rfl (by decide) rfl
    (by simp [Instr.arguments, argumentLength])

theorem FrameBytes.failVolume (form volume : Byte) :
    FrameBytes.Statement (.failVolume form volume) :=
  frame_of_code rfl (by decide) rfl
    (by simp [Instr.arguments, argumentLength])

theorem FrameBytes.restoreVolume (form volume : Byte) :
    FrameBytes.Statement (.restoreVolume form volume) :=
  frame_of_code rfl (by decide) rfl
    (by simp [Instr.arguments, argumentLength])

theorem FrameBytes.readVolumes (form first maximum : Byte) :
    FrameBytes.Statement (.readVolumes form first maximum) :=
  frame_of_code rfl (by decide) rfl
    (by simp [Instr.arguments, argumentLength])

theorem FrameBytes.armNotices (form : Byte) :
    FrameBytes.Statement (.armNotices form) :=
  frame_of_code rfl (by decide) rfl
    (by simp [Instr.arguments, argumentLength])

theorem FrameBytes.takeNotices (form : Byte) :
    FrameBytes.Statement (.takeNotices form) :=
  frame_of_code rfl (by decide) rfl
    (by simp [Instr.arguments, argumentLength])

theorem FrameBytes.enableNotices (form : Byte) (setMask clearMask : BitVec 16) :
    FrameBytes.Statement (.enableNotices form setMask clearMask) :=
  frame_of_code rfl (by decide) rfl
    (by simp [Instr.arguments, argumentLength])

theorem FrameBytes.setSetting (form number volume : Byte) (value : BitVec 32) :
    FrameBytes.Statement (.setSetting form number volume value) :=
  frame_of_code rfl (by decide) rfl
    (by simp [Instr.arguments, argumentLength])

theorem FrameBytes.readSetting (form number volume : Byte) :
    FrameBytes.Statement (.readSetting form number volume) :=
  frame_of_code rfl (by decide) rfl
    (by simp [Instr.arguments, argumentLength])

theorem FrameBytes.readStatus (form : Byte) :
    FrameBytes.Statement (.readStatus form) :=
  frame_of_code rfl (by decide) rfl
    (by simp [Instr.arguments, argumentLength])

theorem FrameBytes.readIdentity (form : Byte) :
    FrameBytes.Statement (.readIdentity form) :=
  frame_of_code rfl (by decide) rfl
    (by simp [Instr.arguments, argumentLength])

theorem FrameBytes.clearCondition (form : Byte) :
    FrameBytes.Statement (.clearCondition form) :=
  frame_of_code rfl (by decide) rfl
    (by simp [Instr.arguments, argumentLength])

theorem FrameBytes.reset (form : Byte) :
    FrameBytes.Statement (.reset form) :=
  frame_of_code rfl (by decide) rfl
    (by simp [Instr.arguments, argumentLength])

theorem FrameBytes.unknownCommand (code : Byte) :
    FrameBytes.Statement (.unknownCommand code) :=
  no_form rfl rfl

theorem FrameBytes.frameOpen :
    FrameBytes.Statement .frameOpen :=
  no_form rfl rfl

theorem FrameBytes.frameEnd (sampled : List Lanes) :
    FrameBytes.Statement (.frameEnd sampled) :=
  no_form rfl rfl

theorem FrameBytes.hardReset (markWritten : Bool) :
    FrameBytes.Statement (.hardReset markWritten) :=
  no_form rfl rfl

theorem FrameBytes.resetNRelease :
    FrameBytes.Statement .resetNRelease :=
  no_form rfl rfl

theorem FrameBytes.scanComplete :
    FrameBytes.Statement .scanComplete :=
  no_form rfl rfl

theorem FrameBytes.commitComplete :
    FrameBytes.Statement .commitComplete :=
  no_form rfl rfl

theorem FrameBytes.commitStoreFault :
    FrameBytes.Statement .commitStoreFault :=
  no_form rfl rfl

theorem FrameBytes.takeReadyEntry :
    FrameBytes.Statement .takeReadyEntry :=
  no_form rfl rfl

theorem FrameBytes.timeBaseTick :
    FrameBytes.Statement .timeBaseTick :=
  no_form rfl rfl

theorem FrameBytes.tfwinExpiry (volume : Fin 64) :
    FrameBytes.Statement (.tfwinExpiry volume) :=
  no_form rfl rfl

theorem FrameBytes.tpwaitExpiry (volume : Fin 64) :
    FrameBytes.Statement (.tpwaitExpiry volume) :=
  no_form rfl rfl

theorem FrameBytes.tptoExpiry (volume : Fin 64) :
    FrameBytes.Statement (.tptoExpiry volume) :=
  no_form rfl rfl

theorem FrameBytes.tstableExpiry (volume : Fin 64) :
    FrameBytes.Statement (.tstableExpiry volume) :=
  no_form rfl rfl

theorem FrameBytes.stageReached (accession : BitVec 24) :
    FrameBytes.Statement (.stageReached accession) :=
  no_form rfl rfl

end Sys2Proof.Laws
end

