-- ==== Sys2Proof/Laws/Step.lean ====
section
/-! SUPPORT. What a step can do to the catalogue, the cursors, the engine's change in flight and the
deferral queue, for every command at once. Claims about those parts cite this one lemma. -/

namespace Sys2Proof.Machine

/-- Two states that agree on the catalogue, its index, the cursors, the change in flight, the deferral
queue, and whether the part has started. -/
def State.sameCore (s t : State) : Prop :=
  t.starting = s.starting ∧ t.store.records = s.store.records ∧ t.index = s.index ∧
    t.cursors = s.cursors ∧ t.engine.inFlight = s.engine.inFlight ∧ t.queue = s.queue

theorem State.sameCore_refl (s : State) : s.sameCore s := ⟨rfl, rfl, rfl, rfl, rfl, rfl⟩

theorem State.sameCore_respond (s : State) (i : Instr) (r : Response) : s.sameCore (s.respond i r) :=
  ⟨rfl, rfl, rfl, rfl, rfl, rfl⟩

theorem State.sameCore_noteCondition (s : State) (form : Byte) (c : Condition) (f : Sticky) :
    s.sameCore (s.noteCondition form c f) := by
  rcases s.noteCondition_cases form c f with ⟨-, h⟩ | ⟨-, h⟩ <;> rw [h] <;>
    exact ⟨rfl, rfl, rfl, rfl, rfl, rfl⟩

theorem State.sameCore_moveVolume (s : State) (v : Fin 64) (m : VolumeMove) :
    s.sameCore (s.moveVolume v m) := by
  obtain ⟨n, h, -⟩ := s.moveVolume_eq v m
  rw [h]; exact ⟨rfl, rfl, rfl, rfl, rfl, rfl⟩

theorem State.sameCore_expire (s : State) (v : Fin 64) (i : Interval) : s.sameCore (s.expire v i) := by
  rcases s.expire_cases v i with h | ⟨-, h⟩ <;> rw [h]
  · exact s.sameCore_refl
  · exact s.sameCore_moveVolume _ _

/-- The new context a cursor command may leave: CLOSED, what a FETCH gives, or a landing on a path built
from the cursor's top. -/
def State.pathMove (s : State) (n : Fin 16) (c : Cursor) : Prop :=
  c = Cursor.closed ∨
  ((s.cursors.get n).state ≠ .closed ∧ c = (({ s.cursors.get n with
      sequence := (s.cursors.get n).sequence + 1#16 } : Cursor).fetched
    (s.view (s.cursors.get n).clearance) s.volumes n).cursor) ∨
  (∃ r context clearance a p, s.record? a = some r ∧
    c = Cursor.placed context (buildPath (s.view clearance) a p) r.duration) ∨
  ((s.cursors.get n).state ≠ .closed ∧ (s.cursors.get n).state ≠ .detached ∧
    s.record? (s.cursors.get n).top = none ∧ ∃ p clearance, c = ((s.cursors.get n).sought p).landed
      (buildPath (s.view clearance) (s.cursors.get n).top p))

/-- What a command does to the core of the state, before the parts outside it are written. -/
def State.coreMove (s u : State) : Prop :=
  u = s ∨
  (s.ready ∧ ∃ c strict, u = (s.acceptChange c strict).1) ∨
  (s.ready ∧ ∃ n c m r, s.pathMove n c ∧ u = s.afterPathWork n c m r) ∨
  (s.ready ∧ ∃ n loop, (s.cursors.get n).state ≠ .closed ∧
    u = s.setCursor n { s.cursors.get n with loop := loop }) ∨
  (s.ready ∧ ∃ a, u = s.removeEntry a) ∨
  (s.ready ∧ ∃ frozen settings, u = (((s.withEngine { s.engine with frozen := frozen }).withSettings
    settings).reachAllStages).proceed) ∨
  u = s.proceed ∨
  (∃ a, u = (s.reachStages a).proceed) ∨
  (∃ f, s.engine.inFlight = some f ∧ u = s.complete f) ∨
  (∃ f, s.engine.inFlight = some f ∧ u = s.failStore f) ∨
  (∃ pending selectLow k mark, u = State.startUp pending selectLow (s.storeAtHardReset mark) k) ∨
  (∃ pending selectLow k, u = State.startUp pending selectLow s.store k) ∨
  (s.starting = true ∧ u = s.scanComplete) ∨
  u = s.tick

/-- A host command's core is its block's. -/
theorem hostCommand_core {i : Instr} {effect : State → State × Response} {s : State}
    (h : s.ready → ∃ u, u.sameCore (effect s).1 ∧ s.coreMove u) :
    ∃ u, u.sameCore (hostCommand i effect s) ∧ s.coreMove u := by
  rcases hostCommand_cases i effect s with ⟨-, e⟩ | ⟨-, -, e⟩ | ⟨hs, e⟩ <;> rw [e]
  · exact ⟨s, s.sameCore_refl, .inl rfl⟩
  · exact ⟨s, s.sameCore_respond _ _, .inl rfl⟩
  · obtain ⟨u, hu, hm⟩ := h hs
    exact ⟨u, hu, hm⟩

/-- A cursor command's core is that of its effect on the cursor it names. -/
theorem onCursor_core {cursor : Byte} {inRange : Bool} {body : Fin 16 → State → State × Response}
    {s : State} (h : ∀ n, ∃ u, u.sameCore (body n s).1 ∧ s.coreMove u) :
    ∃ u, u.sameCore (onCursor cursor inRange body s).1 ∧ s.coreMove u := by
  rcases onCursor_fst cursor inRange body s with e | ⟨n, -, e⟩ <;> rw [e]
  · exact ⟨s, s.sameCore_refl, .inl rfl⟩
  · exact h n

/-- Everything a command can do to the core of the state. -/
theorem exec_core {i : Instr} {s t : State} (ht : exec i s = .next t) :
    ∃ u, u.sameCore t ∧ s.coreMove u := by
  have quiet : ∀ {t : State}, s.sameCore t → ∃ u, u.sameCore t ∧ s.coreMove u :=
    fun h => ⟨s, h, .inl rfl⟩
  have query : ∀ (i : Instr) a, ∃ u, u.sameCore (hostQuery i a s) ∧ s.coreMove u :=
    fun i a => hostCommand_core fun _ => quiet s.sameCore_refl
  have change : ∀ (i : Instr) c strict,
      ∃ u, u.sameCore (hostCommand i (fun s => s.acceptChange c strict) s) ∧ s.coreMove u :=
    fun i c strict => hostCommand_core fun h =>
      ⟨_, State.sameCore_refl _, .inr (.inl ⟨h, c, strict, rfl⟩)⟩
  have volume : ∀ (i : Instr) v r (m : State → Fin 64 → Volume → Option VolumeMove),
      ∃ u, u.sameCore (hostCommand i (fun s => s.volumeCommand v r (m s)) s) ∧ s.coreMove u := by
    refine fun i v r m => hostCommand_core fun _ => quiet ?_
    rcases s.volumeCommand_cases v r (m s) with e | ⟨v, m, -, -, -, e⟩ <;> rw [e]
    · exact s.sameCore_refl
    · exact s.sameCore_moveVolume _ _
  have link : ∀ (i : Instr) r (e : State → State × Response), s.sameCore (e s).1 →
      ∃ u, u.sameCore (linkCommand i r e s) ∧ s.coreMove u := by
    intro i r e he
    rcases linkCommand_cases i r e s with ⟨-, h⟩ | ⟨-, _, -, h⟩ | ⟨-, -, h⟩ <;> rw [h]
    · exact quiet s.sameCore_refl
    · exact quiet (s.sameCore_respond _ _)
    · exact quiet he
  cases i <;> simp only [exec] at ht
  case readItem => cases ht; exact query _ _
  case readSegments => cases ht; exact query _ _
  case enumerate => cases ht; exact query _ _
  case findCarrier => cases ht; exact query _ _
  case locate form a position clearance =>
    cases ht
    refine hostCommand_core fun _ => quiet ?_
    rcases s.locate_fst form a.toNat position clearance with h | ⟨c, f, h⟩ <;> rw [h]
    · exact s.sameCore_refl
    · exact s.sameCore_noteCondition _ _ _
  case writeItem form header segments =>
    unfold execWriteItem at ht
    dsimp only at ht
    split_ifs at ht <;> cases ht
    · exact quiet ⟨rfl, rfl, rfl, rfl, rfl, rfl⟩
    · exact quiet s.sameCore_refl
    · exact change _ _ _
  case amendSegments form a first k m run =>
    unfold execAmendSegments at ht
    dsimp only at ht
    split_ifs at ht <;> cases ht
    · exact quiet ⟨rfl, rfl, rfl, rfl, rfl, rfl⟩
    · exact quiet s.sameCore_refl
    · exact change _ _ _
  case setItemFields => cases ht; exact change _ _ _
  case certifyItem => cases ht; exact change _ _ _
  case retireItem => cases ht; exact change _ _ _
  case purgeItem => cases ht; exact change _ _ _
  case clearHoldings => cases ht; exact change _ _ _
  case storeSettings =>
    cases ht
    exact hostCommand_core fun h => ⟨_, State.sameCore_refl _, .inr (.inl ⟨h, _, _, rfl⟩)⟩
  case cancelPending form a =>
    cases ht
    refine hostCommand_core fun h => ?_
    unfold State.cancelPending
    split
    · exact quiet s.sameCore_refl
    · split
      · exact quiet s.sameCore_refl
      · exact ⟨_, State.sameCore_refl _, .inr (.inr (.inr (.inr (.inl ⟨h, _, rfl⟩))))⟩
  case readPending => cases ht; exact query _ _
  case freeze =>
    cases ht
    refine link _ _ _ ?_
    unfold State.freeze
    split
    · exact s.sameCore_refl
    · exact ⟨rfl, rfl, rfl, rfl, rfl, rfl⟩
  case thaw =>
    cases ht
    refine hostCommand_core fun h => ?_
    unfold State.thaw
    split
    · exact ⟨_, State.sameCore_refl _,
        .inr (.inr (.inr (.inr (.inr (.inl ⟨h, false, s.settings, rfl⟩)))))⟩
    · exact quiet s.sameCore_refl
  case openCursor form cursor a position chunk clearance preference trim =>
    cases ht
    refine hostCommand_core fun h => onCursor_core fun n => ?_
    rcases s.openCursor_cases form a.toNat position.toNat chunk.toNat clearance.toNat
      ((CopyPreference.ofByte preference).getD .primaryFirst) trim.toInt n with
      e | ⟨k, f, e⟩ | ⟨r, context, p, m, res, hc, hr, -, e, -⟩ <;> rw [e]
    · exact quiet s.sameCore_refl
    · exact quiet (s.sameCore_noteCondition _ _ _)
    · exact ⟨_, State.sameCore_refl _, .inr (.inr (.inl ⟨h, n, _, m, res,
        .inr (.inr (.inl ⟨r, context, _, _, p, hr, rfl⟩)), rfl⟩))⟩
  case seek form cursor kind value =>
    cases ht
    refine hostCommand_core fun h => onCursor_core fun n => ?_
    rcases s.seek_cases form kind value n with
      e | ⟨k, f, e⟩ | ⟨p, moved, m, res, hc, hd, hm, e, -⟩ <;> rw [e]
    · exact quiet s.sameCore_refl
    · exact quiet (s.sameCore_noteCondition _ _ _)
    · refine ⟨_, State.sameCore_refl _, .inr (.inr (.inl ⟨h, n, _, m, res, ?_, rfl⟩))⟩
      rcases hm with ⟨r, context, hr, rfl⟩ | ⟨hr, rfl⟩
      · exact .inr (.inr (.inl ⟨r, context, _, _, p, hr, rfl⟩))
      · exact .inr (.inr (.inr ⟨hc, hd, hr, p, _, rfl⟩))
  case setLoop form cursor start length =>
    cases ht
    refine hostCommand_core fun h => onCursor_core fun n => ?_
    rcases s.setLoop_cases form start.toNat length.toNat n with
      e | ⟨k, f, e⟩ | ⟨region, k, f, hc, -, e⟩ <;> rw [e]
    · exact quiet s.sameCore_refl
    · exact quiet (s.sameCore_noteCondition _ _ _)
    · exact ⟨_, State.sameCore_noteCondition _ _ _ _,
        .inr (.inr (.inr (.inl ⟨h, n, some region, hc, rfl⟩)))⟩
  case clearLoop form cursor =>
    cases ht
    refine hostCommand_core fun h => onCursor_core fun n => ?_
    rcases s.clearLoop_cases n with e | ⟨hc, -, e⟩ <;> rw [e]
    · exact quiet s.sameCore_refl
    · exact ⟨_, State.sameCore_refl _, .inr (.inr (.inr (.inl ⟨h, n, none, hc, rfl⟩)))⟩
  case fetch form cursor =>
    cases ht
    refine hostCommand_core fun h => onCursor_core fun n => ?_
    rcases s.fetch_cases form n with ⟨-, e⟩ | ⟨m, res, hc, e, -⟩ <;> rw [e]
    · exact quiet s.sameCore_refl
    · exact ⟨_, State.sameCore_refl _, .inr (.inr (.inl ⟨h, n, _, m, res, .inr (.inl ⟨hc, rfl⟩), rfl⟩))⟩
  case closeCursor form cursor =>
    cases ht
    refine hostCommand_core fun h => onCursor_core fun n => ?_
    rcases s.closeCursor_cases n with ⟨-, e⟩ | ⟨-, e⟩ <;> rw [e]
    · exact quiet s.sameCore_refl
    · exact ⟨_, State.sameCore_refl _, .inr (.inr (.inl ⟨h, n, _, _, _, .inl rfl, rfl⟩))⟩
  case readCursor =>
    cases ht
    exact hostCommand_core fun _ => onCursor_core fun _ => quiet s.sameCore_refl
  case reportFault => cases ht; exact volume _ _ _ _
  case probeResult => cases ht; exact volume _ _ _ _
  case probeVolume => cases ht; exact volume _ _ _ _
  case failVolume => cases ht; exact volume _ _ _ _
  case restoreVolume => cases ht; exact volume _ _ _ _
  case readVolumes => cases ht; exact query _ _
  case armNotices => cases ht; exact hostCommand_core fun _ => quiet ⟨rfl, rfl, rfl, rfl, rfl, rfl⟩
  case takeNotices => cases ht; exact hostCommand_core fun _ => quiet ⟨rfl, rfl, rfl, rfl, rfl, rfl⟩
  case enableNotices => cases ht; exact hostCommand_core fun _ => quiet ⟨rfl, rfl, rfl, rfl, rfl, rfl⟩
  case setSetting form number volume value =>
    cases ht
    refine hostCommand_core fun h => ?_
    rcases s.setSetting_cases number volume value with e | ⟨name, v, -, -, e⟩ <;> rw [e]
    · exact quiet s.sameCore_refl
    · cases name
      case tHold1 => exact ⟨_, State.sameCore_refl _,
        .inr (.inr (.inr (.inr (.inr (.inl ⟨h, s.engine.frozen, _, rfl⟩)))))⟩
      case tHold2 => exact ⟨_, State.sameCore_refl _,
        .inr (.inr (.inr (.inr (.inr (.inl ⟨h, s.engine.frozen, _, rfl⟩)))))⟩
      case tHold3 => exact ⟨_, State.sameCore_refl _,
        .inr (.inr (.inr (.inr (.inr (.inl ⟨h, s.engine.frozen, _, rfl⟩)))))⟩
      all_goals exact quiet ⟨rfl, rfl, rfl, rfl, rfl, rfl⟩
  case readSetting => cases ht; exact query _ _
  case readStatus form =>
    cases ht
    split
    · unfold State.repeatStatus
      split
      · exact quiet s.sameCore_refl
      · exact quiet ⟨rfl, rfl, rfl, rfl, rfl, rfl⟩
    · exact link _ _ _ s.sameCore_refl
  case readIdentity => cases ht; exact link _ _ _ s.sameCore_refl
  case clearCondition => cases ht; exact hostCommand_core fun _ => quiet ⟨rfl, rfl, rfl, rfl, rfl, rfl⟩
  case reset =>
    cases ht
    refine hostCommand_core fun _ => quiet ?_
    simp only [State.orderReset]
    split <;> exact ⟨rfl, rfl, rfl, rfl, rfl, rfl⟩
  case unknownCommand =>
    cases ht
    split
    · exact quiet s.sameCore_refl
    · exact link _ _ _ s.sameCore_refl
  case frameOpen =>
    cases ht
    split
    · exact quiet s.sameCore_refl
    · simp only [State.openFrame]
      split <;> exact quiet ⟨rfl, rfl, rfl, rfl, rfl, rfl⟩
  case frameEnd sampled =>
    cases ht
    split
    · simp only [State.endFrame]
      split
      · split
        · exact quiet ⟨rfl, rfl, rfl, rfl, rfl, rfl⟩
        · exact ⟨_, State.sameCore_refl _,
            .inr (.inr (.inr (.inr (.inr (.inr (.inr (.inr (.inr (.inr (.inr (.inl
              ⟨_, _, _, rfl⟩)))))))))))⟩
      · exact quiet ⟨rfl, rfl, rfl, rfl, rfl, rfl⟩
    · exact quiet s.sameCore_refl
  case hardReset mark =>
    cases ht
    exact ⟨State.startUp s.pending false (s.storeAtHardReset mark) s.openValues,
      ⟨rfl, rfl, rfl, rfl, rfl, rfl⟩,
      .inr (.inr (.inr (.inr (.inr (.inr (.inr (.inr (.inr (.inr (.inl ⟨_, _, _, mark, rfl⟩))))))))))⟩
  case resetNRelease =>
    cases ht
    split
    · exact ⟨_, State.sameCore_refl _,
        .inr (.inr (.inr (.inr (.inr (.inr (.inr (.inr (.inr (.inr (.inr (.inl
          ⟨_, _, _, rfl⟩)))))))))))⟩
    · exact quiet s.sameCore_refl
  case scanComplete =>
    cases ht
    split
    · rename_i h
      simp only [Bool.and_eq_true] at h
      exact ⟨_, State.sameCore_refl _, .inr (.inr (.inr (.inr (.inr (.inr (.inr (.inr (.inr (.inr
        (.inr (.inr (.inl ⟨h.1, rfl⟩))))))))))))⟩
    · exact quiet s.sameCore_refl
  case commitComplete =>
    cases ht
    split
    · exact quiet s.sameCore_refl
    · rename_i f hf
      exact ⟨_, State.sameCore_refl _,
        .inr (.inr (.inr (.inr (.inr (.inr (.inr (.inr (.inl ⟨f, hf, rfl⟩))))))))⟩
  case commitStoreFault =>
    cases ht
    split
    · exact quiet s.sameCore_refl
    · rename_i f hf
      exact ⟨_, State.sameCore_refl _,
        .inr (.inr (.inr (.inr (.inr (.inr (.inr (.inr (.inr (.inl ⟨f, hf, rfl⟩)))))))))⟩
  case takeReadyEntry =>
    cases ht
    exact ⟨_, State.sameCore_refl _, .inr (.inr (.inr (.inr (.inr (.inr (.inl rfl))))))⟩
  case timeBaseTick =>
    cases ht
    split
    · exact quiet s.sameCore_refl
    · exact ⟨_, State.sameCore_refl _, .inr (.inr (.inr (.inr (.inr (.inr (.inr (.inr (.inr (.inr
        (.inr (.inr (.inr rfl))))))))))))⟩
  case tfwinExpiry => cases ht; exact quiet (s.sameCore_expire _ _)
  case tpwaitExpiry => cases ht; exact quiet (s.sameCore_expire _ _)
  case tptoExpiry => cases ht; exact quiet (s.sameCore_expire _ _)
  case tstableExpiry => cases ht; exact quiet (s.sameCore_expire _ _)
  case stageReached =>
    cases ht
    exact ⟨_, State.sameCore_refl _, .inr (.inr (.inr (.inr (.inr (.inr (.inr (.inl ⟨_, rfl⟩)))))))⟩

end Sys2Proof.Machine
end

