-- ==== Sys2Proof/Tests/Slice0.lean ====
section
/-! SUPPORT. Small tests of the model, with expected values taken from the worked examples and layouts of
spec/, the smoke test of WellFormed, and one witness for each statement that has hypotheses: a concrete
state and operands that meet them together, each clause at a boundary of its range. -/

namespace Sys2Proof.Tests

open Sys2Proof.Machine

set_option Elab.async false

/-! ### Helper states -/

/-- A part that has started over a catalogue, with a frame open. -/
def holding (records : List ItemRecord) : State :=
  { State.reset with
    pins := ⟨true, false⟩
    link := ⟨some Frame.opened, 1, .none, false⟩
    starting := false
    store := ⟨records, none⟩
    index := ⟨records.map fun r => ⟨r.accession, 0, false⟩, carriersOf records,
      16384 - records.length, 131072 - segmentsOwned records⟩ }

/-- A record whose fields the worked examples leave open take plain values. -/
def plainRecord (accession duration : Nat) (trim : Int) (segments : List Segment) : ItemRecord where
  accession := accession
  state := .active
  carrierKind := .openReel
  carrierId := 77
  side := 1
  track := 2
  duration := duration
  trim := trim
  restriction := 0
  grade := 3
  successor := none
  revision := 0
  segments := segments

/-- A stereo segment of 24-bit frames at 96,000, on volume 3 (section 3.8). -/
def tape (start length : Nat) (trim : Int) (speed count file base : Nat)
    (secondary : Option Placement) : Segment where
  start := start
  length := length
  body := .transfer trim ⟨96000, 2, 3, 1905, speed, count, ⟨3, file, base⟩, secondary⟩

/-- Items T and C of section 3.8. -/
def itemT : ItemRecord :=
  plainRecord 201877 45000000 20
    [tape 0 20000000 0 3810 960000 7781 1048576 none,
      tape 20000000 25000000 5 1905 2400000 7782 0 (some ⟨9, 412, 0⟩)]
def itemC : ItemRecord :=
  plainRecord 500120 30000000 0 [⟨0, 30000000, .reference (-30) 201877 12500000⟩]

def library : State := holding [itemT, itemC]

/-- T's WRITE ITEM as the wire carries it (section 2, example). -/
def writeT : WireHeader := headerOfRecord itemT 0 false
def runT : List WireSegment := itemT.segments.map wireOfSegment

def online : Volume := ⟨.online, 0, .idle⟩

/-- Volumes 3 and 9 ONLINE, and cursor 2 OPEN on C at 7,400,000 as section 11.4 opens it. -/
def desk : Cursor :=
  { Cursor.closed with
    state := .open, top := 500120, position := 7400000, chunk := 100000, trim := -15
    path := [⟨500120, 0, 0, 0, false⟩, ⟨201877, 0, 0, -12500000, false⟩] }

def counted (t c : Nat) : List IndexEntry := [⟨201877, t, false⟩, ⟨500120, c, false⟩]

def playing : State :=
  let s := ((library.setVolume 3 online).setVolume 9 online).setCursor 2 desk
  s.withIndex { s.index with entries := counted 1 1 }

/-- A commit in flight. -/
def committing (s : State) (c : Change) (slots segments : Nat) : State :=
  s.withEngine { s.engine with inFlight := some ⟨c, .direct, slots, segments⟩ }

/-- T's first segment transferred again (section 11.4). -/
def retransfer : List WireSegment :=
  [wireOfSegment (tape 0 20000000 0 1905 1920000 7795 0 (some ⟨9, 418, 0⟩))]

def amendT : Change := .amendSegments 201877 0 1 1 retransfer

/-- `amendT` deferred behind cursor 2. -/
def waiting (state : EntryState) (age stage : Nat) : State :=
  playing.withQueue [⟨201877, amendT, state, age, stage⟩]

/-- The escalation settings of section 11.4. -/
def escalation : Settings :=
  { Settings.factory with
    act1 := .notify, tHold2 := 30000, act2 := .yield, tHold3 := 60000, act3 := .detach }

/-- What an outcome's next state shows. -/
def shows {α : Type} (o : Host.Outcome State Fault Refusal) (f : State → α) : Option α :=
  match o with
  | .next t => some (f t)
  | .fault _ => none
  | .refused _ => none

def response (s : State) : List Byte := ((s.link.frame.map (·.response)).getD [])

/-- A field of a response, `n` bytes from `offset`, read as a number. -/
def field (offset n : Nat) (s : State) : Nat := numberOf (((response s).drop offset).take n)

/-! ### WellFormed smoke -/

theorem smoke_write_missing_segment :
    (Instr.writeItem 0 writeT (runT.take 1)).wellFormed = false := by decide +kernel
theorem smoke_write_segments_beside_bad_count :
    (Instr.writeItem 0 { writeT with segmentCount := 0 } runT).wellFormed = false := by
  decide +kernel
theorem smoke_amend_surplus_segment :
    (Instr.amendSegments 0 201877#24 0 1 1 runT).wellFormed = false := by decide +kernel
theorem smoke_unknown_code_is_known : (Instr.unknownCommand 0x10#8).wellFormed = false := by
  decide +kernel
theorem smoke_well_formed :
    (Instr.writeItem 0 writeT runT).wellFormed = true ∧
      (Instr.unknownCommand 0x27#8).wellFormed = true := by decide +kernel

/-! ### Frames, from R180, R211 and R212 -/

/-- SEEK on cursor 2, FINE, -1, whose first value byte is ignored. -/
theorem test_frame_of_seek :
    decodeFrame [0x31, 0x01, 0x02, 0x01, 0x00, 0xFF, 0xFF, 0xFF, 0xFF] =
      some (.seek 1 2 1 0x00FFFFFFFF#40) := by decide +kernel
/-- 201877 is 03 14 95h. -/
theorem test_frame_of_retire :
    decodeFrame [0x24, 0x00, 0x03, 0x14, 0x95, 0x00, 0x00, 0x00] =
      some (.retireItem 0 201877#24 0#24) := by decide +kernel
theorem test_frame_27h_is_unknown : decodeFrame [0x27] = some (.unknownCommand 0x27) := by
  decide +kernel
/-- Section 9, example: the frame of a WRITE ITEM of two segments has 130 bytes. -/
theorem test_frame_length_of_write :
    (Instr.writeItem 0 writeT runT).frameBytes.length = 130 := by decide +kernel
/-- CLOSE CURSOR 5 on four lanes: the code 35h on D0, the form 00h, and 05h as 0 and 5; the lanes that the
code byte does not use carry ones, which are not read. -/
theorem test_clocks_on_four_lanes :
    decodeClocks 4 [14, 14, 15, 15, 14, 15, 14, 15, 0, 0, 0, 5] = some (.closeCursor 0 5) := by
  decide +kernel
/-- Section 9, example: WRITE ITEM of two segments ends at clock 524 on two lanes, 1,040 on one, 266 on
four. -/
theorem test_clocks_of_write :
    ([2, 1, 4].map fun lanes => ((Instr.writeItem 0 writeT runT).frameClocks lanes).length) =
      [524, 1040, 266] := by decide +kernel
theorem test_no_row_has_bits : decodeTableWord 8 0x10 = none := rfl

/-! ### Lookups -/

theorem test_read_item :
    (field 0 1 <$> shows (exec (.readItem 0 201877#24) playing) id,
      field 1 3 <$> shows (exec (.readItem 0 201877#24) playing) id,
      field 13 5 <$> shows (exec (.readItem 0 201877#24) playing) id,
      field 29 1 <$> shows (exec (.readItem 0 201877#24) playing) id) =
    (some 0, some 201877, some 45000000, some 1) := by decide +kernel
theorem test_read_item_not_found :
    shows (exec (.readItem 0 1#24) library) response = some [0x12] := by decide +kernel
/-- Position 1 alone: state, duration, revision, count 2, returned 1, position 1, kind TRANSFER. -/
theorem test_read_segments :
    (shows (exec (.readSegments 0 201877#24 1 1) library) response).map (List.take 13) =
      some [0, 1, 0, 0x02, 0xAE, 0xA5, 0x40, 0, 0, 2, 1, 1, 1] := by decide +kernel
theorem test_enumerate_mask :
    shows (exec (.enumerate 0 0#24 2 0) library) response =
      some [0, 0, 2, 0x3F, 0xFE, 0x01, 0xFF, 0xFD, 0, 0, 0, 0, 0] := by decide +kernel

/-- The carrier of chapter 1's example. -/
def disc (accession side track : Nat) (state : RecordState) (kind : CarrierKind) : ItemRecord :=
  { plainRecord accession 1000000 0 [⟨0, 1000000, .lacuna⟩] with
    state := state, carrierKind := kind, carrierId := 30266, side := side, track := track }

def discs : State :=
  holding [disc 310401 0 0 .withdrawn .lacquerDisc, disc 310402 0 0 .certified .lacquerDisc,
    disc 310403 0 1 .active .lacquerDisc, disc 310404 1 0 .active .lacquerDisc,
    disc 310455 0 0 .active .shellacDisc]

/-- Two hits, more, continuation 0/1/310403. -/
theorem test_find_carrier :
    shows (exec (.findCarrier 0 30266#32 0 0 0 0#24 2) discs) response =
      some [0, 2, 1, 0, 1, 0x04, 0xBC, 0x83, 0, 0, 0x04, 0xBC, 0x82, 4, 2,
        0, 0, 0x04, 0xBC, 0xB7, 5, 1] := by decide +kernel
/-- Section 3.8, first row: depth 2, AUDIO, index 888,000, offset 6,376,576, gain -10. -/
theorem test_locate :
    (shows (exec (.locate 1 500120#24 6000000#40 0) playing) fun t =>
      ([field 1 1 t, field 4 1 t, field 17 3 t, field 26 6 t, field 32 6 t],
        ((response t).drop 48).take 2, t.resolution.condition)) =
    some ([2, 1, 201877, 6376576, 888000], [0xFF, 0xF6], .within) := by decide +kernel

/-! ### Changes -/

/-- Chapter 2, example: ACCEPTED, one slot and two segments provisional. -/
theorem test_write_item :
    (shows (exec (.writeItem 0 writeT runT) (holding [])) fun t =>
      (response t, t.index.vacantSlots, t.index.freeSegments, t.store.records)) =
    some ([0x01, 0x03, 0x14, 0x95, 0x20], 16383, 131070, []) := by decide +kernel
theorem test_write_item_range :
    shows (exec (.writeItem 0 { writeT with segmentCount := 65 } []) (holding [])) response =
      some [0x10, 0x02, 0x40] := by decide +kernel
/-- Chapter 2, example: one microsecond short is AMEND_SPAN at run position 0. -/
theorem test_amend_span :
    shows (exec (.amendSegments 0 201877#24 0 1 1
        [wireOfSegment (tape 0 19999999 0 3810 576000 7781 3352576 none)]) library) response =
      some [0x10, 0x11, 0x00] := by decide +kernel
/-- Section 11.4: the amendment of an item in use is DEFERRED as the only entry. -/
theorem test_amend_deferred :
    (shows (exec (.amendSegments 0 201877#24 0 1 1 retransfer) playing) fun t =>
      (response t, t.queue.map fun e => (e.accession, e.state, e.age, e.stage))) =
    some ([0x02, 0x01], [(201877, .waiting, 0, 0)]) := by decide +kernel
def gradeFields : WireFields := ⟨4, 0, 9, 5, 0, 0, 99, 0⟩
/-- Chapter 7, example: ACCEPTED, and BUSY while a commit is in flight. -/
theorem test_set_item_fields :
    (shows (exec (.setItemFields 0 310402#24 gradeFields) discs) response,
      shows (exec (.setItemFields 0 310403#24 gradeFields)
        (committing discs (.setItemFields 310402 gradeFields) 0 0)) response) =
    (some [0x01, 0x04, 0xBC, 0x82, 0x22], some [0x08]) := by decide +kernel
/-- C holds a REFERENCE, reason 21h at segment 0, and T a segment with no secondary. -/
theorem test_certify_incomplete :
    (shows (exec (.certifyItem 0 500120#24) library) response,
      shows (exec (.certifyItem 0 201877#24) library) response) =
    (some [0x11, 0x21, 0x00], some [0x11, 0x22, 0x00]) := by decide +kernel
theorem test_retire_accepted :
    shows (exec (.retireItem 0 310403#24 310455#24) discs) response =
      some [0x01, 0x04, 0xBC, 0x83, 0x24] := by decide +kernel
theorem test_purge_tombstone :
    shows (exec (.purgeItem 0 310401#24) discs) response =
      some [0x01, 0x04, 0xBC, 0x81, 0x25] := by decide +kernel
theorem test_clear_holdings :
    shows (exec (.clearHoldings 0) library) response = some [0x01, 0, 0, 0, 0x26] := by
  decide +kernel
theorem test_store_settings :
    shows (exec (.storeSettings 0) library) response = some [0x01, 0, 0, 0, 0x62] := by
  decide +kernel

/-! ### The engine and the deferral queue -/

/-- The row of READ PENDING, READY with age 8,000 at stage 1. -/
theorem test_cancel_pending :
    (shows (exec (.cancelPending 0 201877#24) (waiting .ready 8000 1)) fun t =>
      (response t, t.queue)) =
    some ([0x00, 0x21, 0x02, 0, 0, 0x1F, 0x40, 0x01, 0x00], []) := by decide +kernel
theorem test_read_pending :
    shows (exec (.readPending 0) (waiting .waiting 5000 1)) response =
      some [0, 1, 0, 0x03, 0x14, 0x95, 0x21, 1, 0, 0, 0x13, 0x88, 1, 1, 1, 0, 54] := by
  decide +kernel
theorem test_freeze_busy :
    shows (exec (.freeze 0) (committing discs (.setItemFields 310402 gradeFields) 0 0)) response =
      some [0x08, 0x01] := by decide +kernel
/-- A thaw with a READY entry takes it at once. -/
theorem test_thaw_takes :
    (shows (exec (.thaw 0) (((waiting .ready 10 0).withCursors (Table.fill 16 Cursor.closed)).withEngine
        ⟨none, true, none⟩)) fun t =>
      (t.engine.frozen, t.queue.map (·.state), t.engine.inFlight.map (·.source))) =
    some (false, [.committing], some .queue) := by decide +kernel
/-- Section 11.4: the completion leaves T at revision 1, one segment returned for one taken. -/
theorem test_commit_complete :
    (shows (exec .commitComplete (committing library amendT 0 1)) fun t =>
      ((t.record? 201877).map (·.revision), t.index.freeSegments - library.index.freeSegments,
        t.engine.lastCommit, t.notices.commitDone)) =
    some (some 1#16, 1, some ⟨201877, .amendSegments, .done, 1#16⟩, true) := by decide +kernel
theorem test_commit_store_fault :
    (shows (exec .commitStoreFault (committing library amendT 0 1)) fun t =>
      (t.store, t.engine.lastCommit, t.notices.commitFailed)) =
    some (library.store, some ⟨201877, .amendSegments, .storeFault, 0#16⟩, true) := by
  decide +kernel
theorem test_take_ready_protected :
    (shows (exec .takeReadyEntry ((((waiting .ready 10 0).withCursors
          (Table.fill 16 Cursor.closed)).withSettings
        { Settings.factory with
          protectionEnabled := true, protectionLow := 200000, protectionHigh := 209999 }))) fun t =>
      (t.queue, t.engine.lastCommit)) =
    some ([], some ⟨201877, .amendSegments, .protection, 0#16⟩) := by decide +kernel

/-! ### Cursors -/

/-- Section 11.4: the build on C at 7,400,000 pushes C and T, and each count becomes 1. -/
theorem test_open_cursor :
    (shows (exec (.openCursor 1 2 500120#24 7400000#40 100000#24 0 0 (-15)) library) fun t =>
      ((t.cursors.get 2).path, t.index.entries.map (·.useCount), response t)) =
    some (desk.path, [1, 1], [0, 1, 0, 0, 0x70, 0xEA, 0x40, 0x01, 0x86, 0xA0, 0]) := by
  decide +kernel
/-- Section 3.8: SEEK COARSE -10 from 8,500,000 clamps to 0. -/
theorem test_seek_clamps :
    (shows (exec (.seek 1 2 2 0xFFF6#40)
        (playing.setCursor 2 { desk with position := 8500000 })) fun t =>
      ((t.cursors.get 2).position, t.resolution.condition, t.resolution.positionClamped)) =
    some (0, .below, true) := by decide +kernel
/-- Section 3.8: SEEK COARSE +31 in the strict form is RANGE, and the cursor stays. -/
theorem test_seek_strict :
    (shows (exec (.seek 3 2 2 31#40) (playing.setCursor 2 { desk with position := 0 })) fun t =>
      (response t, (t.cursors.get 2).position, t.resolution.condition)) =
    some ([0x20], 0, .above) := by decide +kernel
/-- Section 3.8: the loop region [29,990,000, 30,000,000). -/
theorem test_set_loop :
    (shows (exec (.setLoop 1 2 29995000#40 20000#40) playing) fun t =>
      ((t.cursors.get 2).loop, t.resolution.condition, t.resolution.positionClamped)) =
    some (some ⟨29990000, 30000000⟩, .above, true) := by decide +kernel
theorem test_clear_loop :
    (shows (exec (.clearLoop 0 2) (playing.setCursor 2 { desk with loop := some ⟨0, 10000⟩ }))
      fun t => (t.cursors.get 2).loop) = some none := by decide +kernel
/-- Section 11.4, first FETCH: AUDIO, COPY_CHANGED and SEGMENT_END, volume 3 file 7781, offset 6,779,776,
index 955,200, count 4,800, gain -25. -/
theorem test_fetch :
    (shows (exec (.fetch 1 2) playing) fun t =>
      ([field 1 1 t, field 2 2 t, field 4 1 t, field 5 1 t, field 22 1 t, field 23 3 t],
        [field 26 6 t, field 32 6 t, field 38 6 t], ((response t).drop 48).take 2,
        (t.cursors.get 2).position, (t.cursors.get 2).path.map (·.segment))) =
    some ([2, 1, 1, 0x82, 3, 7781], [6779776, 955200, 4800], [0xFF, 0xE7], 7500000, [0, 1]) := by
  decide +kernel
/-- Chapter 5, example: with volume 3 FAILED, the segment without a secondary is UNAVAILABLE. -/
theorem test_fetch_unavailable :
    (shows (exec (.fetch 0 2) (playing.setVolume 3 ⟨.failed, 3, .idle⟩)) fun t =>
      (field 4 1 t, (t.cursors.get 2).state, (t.cursors.get 2).position, t.notices.cursorStalled)) =
    some (3, .stalled, 7400000, 4#16) := by decide +kernel
theorem test_close_cursor :
    (shows (exec (.closeCursor 0 2) playing) fun t =>
      (t.cursors.get 2, t.index.entries.map (·.useCount))) =
    some (Cursor.closed, [0, 0]) := by decide +kernel
theorem test_read_cursor :
    (shows (exec (.readCursor 0 2) playing) response).map (List.take 16) =
      some [0, 1, 0x07, 0xA1, 0x98, 0, 0, 0x70, 0xEA, 0x40, 0x01, 0x86, 0xA0, 0, 0, 0xFF] := by
  decide +kernel

/-! ### Volumes -/

/-- Section 11.4, at 900 ms: the third fault fails the volume. -/
theorem test_report_fault :
    (shows (exec (.reportFault 0 3) (library.setVolume 3 ⟨.online, 2, .running .tFwin 4900⟩)) fun t =>
      (t.volumes.get 3, t.notices.volumeFailed, response t)) =
    some (⟨.failed, 3, .running .tPwait 30000⟩, 8#64, [0, 2, 3, 2, 0, 0, 0x75, 0x30]) := by
  decide +kernel
theorem test_probe_result :
    (shows (exec (.probeResult 0 3 1) (library.setVolume 3 ⟨.probing, 3, .running .tPto 1⟩)) fun t =>
      t.volumes.get 3) = some ⟨.settling, 3, .running .tStable 60000⟩ := by decide +kernel
theorem test_probe_volume :
    (shows (exec (.probeVolume 0 3) (library.setVolume 3 ⟨.failed, 3, .idle⟩)) fun t =>
      t.volumes.get 3) = some ⟨.probing, 3, .running .tPto 10000⟩ := by decide +kernel
theorem test_fail_volume :
    (shows (exec (.failVolume 0 3) playing) fun t => (t.volumes.get 3, t.notices.volumeFailed)) =
      some (⟨.failed, 0, .running .tPwait 30000⟩, 0#64) := by decide +kernel
theorem test_restore_volume :
    (shows (exec (.restoreVolume 0 3) (library.setVolume 3 ⟨.failed, 3, .idle⟩)) fun t =>
      t.volumes.get 3) = some online := by decide +kernel
theorem test_read_volumes :
    shows (exec (.readVolumes 0 63 2) library) response =
      some [0, 1, 63, 6, 0, 0, 0, 0, 0, 0, 0] := by decide +kernel
theorem test_tfwin_expiry :
    (shows (exec (.tfwinExpiry 3) (library.setVolume 3 ⟨.online, 2, .running .tFwin 0⟩)) fun t =>
      t.volumes.get 3) = some online := by decide +kernel
theorem test_tpwait_expiry :
    (shows (exec (.tpwaitExpiry 3) (library.setVolume 3 ⟨.failed, 3, .running .tPwait 0⟩)) fun t =>
      (t.volumes.get 3, t.notices.volumeProbeRequest)) =
    some (⟨.probing, 3, .running .tPto 10000⟩, 8#64) := by decide +kernel
theorem test_tpto_expiry :
    (shows (exec (.tptoExpiry 3) (library.setVolume 3 ⟨.probing, 3, .running .tPto 0⟩)) fun t =>
      ((t.volumes.get 3).health, t.notices.volumeFailed)) = some (.failed, 8#64) := by decide +kernel
theorem test_tstable_expiry :
    (shows (exec (.tstableExpiry 3) (library.setVolume 3 ⟨.settling, 3, .running .tStable 0⟩))
      fun t => (t.volumes.get 3, t.notices.volumeReturned)) = some (online, 8#64) := by
  decide +kernel

/-! ### Notices, settings and status -/

def startedPending : State := library.withNotices { Notices.afterReset with started := true }

/-- Chapter 10, example: the arming latches within the command. -/
theorem test_arm_notices :
    (shows (exec (.armNotices 0) startedPending) fun t =>
      (response t, t.notices.armed, t.notices.latched)) =
    some ([0, 0, 1], false, true) := by decide +kernel
theorem test_take_notices :
    (shows (exec (.takeNotices 0) (startedPending.raise (.volumeFailed 3))) fun t =>
      ((response t).take 5, field 11 8 t, (response t).length, t.notices.kinds)) =
    some ([0, 0x02, 0x40, 0x03, 0xFF], 8, 43, 0#10) := by decide +kernel
theorem test_enable_notices :
    (shows (exec (.enableNotices 0 0xFFFF#16 0x0100#16) library) response) =
      some [0, 0x02, 0xFF] := by decide +kernel
theorem test_set_setting :
    (shows (exec (.setSetting 0 0x10 0 16#32) library) response,
      shows (exec (.setSetting 0 0x10 0 15#32) library) fun t => t.settings.faultThreshold) =
    (some [0x10, 0x14, 0x41], some 15) := by decide +kernel
theorem test_read_setting :
    shows (exec (.readSetting 0 0x12 0) library) response =
      some [0, 0x12, 0, 0, 0, 0x75, 0x30, 0, 0, 0x75, 0x30, 0] := by decide +kernel
theorem test_read_status :
    shows (exec (.readStatus 0) (waiting .ready 0 0)) response =
      some [0, 0, 0x11, 0, 0, 0, 0, 0, 0] := by decide +kernel
theorem test_read_identity :
    shows (exec (.readIdentity 0) library) response =
      some [0, 0x57, 0x06, 0x40, 1, 0x40, 0, 0x02, 0, 0, 16, 4, 64, 8, 1, 0] := by decide +kernel
theorem test_clear_condition :
    (shows (exec (.clearCondition 0) (library.withResolution ⟨.gap, true, true, true, true⟩))
      fun t => t.resolution) = some Resolution.clear := by decide +kernel
/-- Chapter 9, example: RESET during a commit waits. -/
theorem test_reset_waits :
    (shows (exec (.reset 0) (committing library amendT 0 1)) fun t =>
      (response t, t.resetPending, t.starting)) = some ([0], true, false) := by decide +kernel
/-- An unknown code on one lane: eight clocks undriven, then 0Ah and 00h on D0. -/
theorem test_unknown_command_driven :
    (shows (exec (.unknownCommand 0x27) library) fun t =>
      ((t.drivenAt 7).driven, bytesOfClocks 1 (((t.drivenClocks 32).drop 8).map (·.level)),
        (t.drivenAt 31).driven)) = some (0, [0x0A, 0, 0], 1) := by decide +kernel
theorem test_unknown_command :
    shows (exec (.unknownCommand 0x27) library) response = some [0x0A] := by decide +kernel

/-! ### Events -/

theorem test_frame_open :
    (shows (exec .frameOpen State.reset) fun t => t.link.frame) = some (some Frame.opened) := by
  decide +kernel
/-- Chapter 9, example: SEL rising in the turnaround, three clocks in, is CUT_SHORT. -/
theorem test_frame_end_cut_short :
    (shows (exec (.frameEnd [0, 0, 0]) (library.withLink
        ⟨some ⟨.turnaround, some 0x20, [0x20], [2, 1]⟩, 2, .none, false⟩)) fun t =>
      t.link.lastResult) = some .cutShort := by decide +kernel
theorem test_frame_end_truncated :
    (shows (exec (.frameEnd []) (library.withLink
        ⟨some ⟨.arguments, some 0x20, [0x20], []⟩, 2, .none, false⟩)) fun t =>
      t.link.lastResult) = some .truncated := by decide +kernel
theorem test_hard_reset_after_mark :
    (shows (exec (.hardReset true) (committing library (.purgeItem 500120) 0 0)) fun t =>
      (t.store.records, t.pins.held, t.engine.inFlight)) = some ([itemT], true, none) := by
  decide +kernel
theorem test_reset_n_release :
    (shows (exec .resetNRelease (library.withPins ⟨false, true⟩)) fun t =>
      (t.pins.held, t.starting, t.store)) = some (false, true, library.store) := by decide +kernel
theorem test_scan_complete :
    (shows (exec .scanComplete (library.withStarting true)) fun t =>
      (t.starting, t.notices.started, t.index)) = some (false, true, library.index) := by
  decide +kernel
theorem test_tick :
    (shows (exec .timeBaseTick ((waiting .waiting 4998 0).setVolume 3
        ⟨.online, 1, .running .tFwin 5⟩)) fun t =>
      (t.milliseconds, (t.volumes.get 3).timer, t.queue.map (·.age))) =
    some (1, .running .tFwin 4, [4999]) := by decide +kernel
/-- Section 11.4: stage 2 at 35,000 ms is a YIELD, reached in the tick that brings the age there, so that
a FREEZE right after it finds it reached. -/
theorem test_tick_reaches_stage :
    (shows (exec .timeBaseTick ((waiting .waiting 34999 1).withSettings escalation)) fun t =>
      (t.queue.map (fun e => (e.age, e.stage)), (t.cursors.get 2).state)) =
    some ([(35000, 2)], .yielding) := by decide +kernel
theorem test_stage_yield :
    (shows (exec (.stageReached 201877#24) ((waiting .waiting 35000 1).withSettings escalation))
      fun t => (t.queue.map (·.stage), (t.cursors.get 2).state, t.notices.changeStage)) =
    some ([2], .yielding, true) := by decide +kernel
/-- Section 11.4: stage 3 at 95,000 ms detaches cursor 2, and the entry is taken. -/
theorem test_stage_detach :
    (shows (exec (.stageReached 201877#24) ((waiting .waiting 95000 2).withSettings escalation))
      fun t => (t.queue.map (·.state), (t.cursors.get 2).state, t.notices.cursorDetached,
        t.index.entries.map (·.useCount))) =
    some ([.committing], .detached, 4#16, [0, 0]) := by decide +kernel
theorem test_idle : step State.reset = .next State.reset := rfl

/-! ### Witnesses: the hypotheses of the statements are met -/

theorem library_ready : library.ready := by unfold State.ready; decide +kernel
theorem playing_ready : playing.ready := by unfold State.ready; decide +kernel

/-- Cursor 2 moves on a state that stays ready. -/
def withDesk (c : Cursor) : State := playing.setCursor 2 c

theorem witness_StepRunsFrontCommand :
    (library.withPending [.frameOpen, .scanComplete]).pending = .frameOpen :: [.scanComplete] := rfl

theorem witness_EveryCommandIsAnswered :
    (Instr.writeItem 0 writeT runT).form.isSome = true ∧
      (Instr.writeItem 0 writeT runT).wellFormed = true ∧ library.takesCommand = true := by
  decide +kernel

/-- STARTING alone, a soft reset pending alone, READ IDENTITY's own clause, and a pending reset clear. -/
theorem witness_NotReadyTurnsCommandsAway :
    (∀ form, Instr.freeze 0 ≠ .readStatus form) ∧ (∀ form, Instr.freeze 0 ≠ .readIdentity form) ∧
      (Instr.freeze 0).form.isSome = true ∧ (Instr.freeze 0).wellFormed = true ∧
      (Instr.readIdentity 0).form.isSome = true ∧
      (library.withStarting true).takesCommand = true ∧ (library.withStarting true).starting = true ∧
      (library.withResetPending true).takesCommand = true ∧
      (library.withResetPending true).resetPending = true ∧ library.resetPending = false ∧
      knownCode 0x27#8 = false := by
  refine ⟨nofun, nofun, ?_⟩
  decide +kernel

/-- The state in its READ STATUS frame, past the command. -/
def statusFrame : State :=
  library.withLink ⟨some ⟨.turnaround, some 0x70, [0x70, 0], 0 :: library.statusWord⟩, 1, .none, false⟩

theorem witness_CommandsNeedOpenFrame :
    (Instr.readItem 0 201877#24).form.isSome = true ∧ State.reset.takesCommand = false ∧
      State.reset.repeatsStatus = false ∧
      statusFrame.takesCommand = false ∧ ∀ form, Instr.readItem 0 201877#24 ≠ .readStatus form := by
  refine ⟨by decide +kernel, by decide +kernel, by decide +kernel, by decide +kernel, nofun⟩

theorem witness_FrameBytesRoundTrip :
    (Instr.amendSegments 0 201877#24 0 1 1 retransfer).form.isSome = true ∧
      (Instr.amendSegments 0 201877#24 0 1 1 retransfer).wellFormed = true ∧
      (Instr.unknownCommand 0x27).wellFormed = true ∧
      ∀ (k : Nat) (x y : Lanes), ((Instr.closeCursor 0 5).frameClocks 4)[k]? = some x →
        ((Instr.closeCursor 0 5).frameClocks 4)[k]? = some y → ∀ lane,
          lane < (if k < 8 then 1 else 4) → x.getLsbD lane = y.getLsbD lane := by
  refine ⟨by decide +kernel, by decide +kernel, by decide +kernel, ?_⟩
  intro k x y hx hy lane _
  rw [hx] at hy
  cases hy
  rfl

/-- A frame in each phase: 7 and 8 clocks of a code byte, and the last response clock met and missed. -/
def inFrame (f : Frame) : State := library.withLink ⟨some f, 2, .none, false⟩
def answeredFrame : Frame := ⟨.turnaround, some 0x10, [0x10, 0, 0, 0, 1], [0x12]⟩
theorem witness_FramesOpenAndEnd :
    State.reset.pins.selectLow = false ∧ State.reset.pins.held = false ∧
      library.pins.selectLow = true ∧ (inFrame answeredFrame).pins.selectLow = true ∧
      (inFrame answeredFrame).link.frame = some answeredFrame ∧
      (inFrame answeredFrame).link.resetOrdered = false ∧ Frame.discarded.phase = .discard ∧
      Frame.opened.phase = .code ∧ (List.replicate 7 (0#4)).length < 8 ∧
      8 ≤ (List.replicate 8 (0#4)).length ∧ answeredFrame.code = some 0x10 ∧
      (1 + answeredFrame.response.length) * (8 / (inFrame answeredFrame).link.lanes) ≤
        (List.replicate 8 (0#4)).length := by decide +kernel

theorem witness_ResponseDriven :
    (Instr.readItem 0 1#24).wellFormed = true ∧
      (inFrame answeredFrame).hasAnswered (.readItem 0 1#24) ⟨.notFound, []⟩ ∧
      (inFrame answeredFrame).link.lanes = 2 ∧
      statusFrame.hasAnswered (.readStatus 0) ⟨.ok, library.statusWord⟩ ∧
      library.statusWord.length = 8 ∧ statusFrame.link.lanes = 1 ∧
      (inFrame Frame.discarded).link.frame = some Frame.discarded := by
  unfold State.hasAnswered
  decide +kernel

theorem witness_ReadStatusAnswers :
    library.takesCommand = true ∧ statusFrame.repeatsStatus = true ∧
      statusFrame.link.frame = some ⟨.turnaround, some 0x70, [0x70, 0], 0 :: library.statusWord⟩ ∧
      (library.withQueue (List.replicate 8 ⟨201877, amendT, .ready, 0, 0⟩)).queue.length ≤ 8 := by
  decide +kernel

/-- A soft reset ordered, over an IDLE and over a COMMITTING engine, and one pending. -/
def ordered (s : State) : State := s.withLink { s.link with resetOrdered := true }
theorem witness_ResetTakesEffect :
    library.engine.inFlight = none ∧ (committing library amendT 0 1).ready ∧
      (committing library amendT 0 1).engine.inFlight = some ⟨amendT, .direct, 0, 1⟩ ∧
      (ordered library).pins.selectLow = true ∧ (ordered library).link.resetOrdered = true ∧
      (ordered (committing library amendT 0 1)).engine.inFlight.isSome = true ∧
      ((committing library amendT 0 1).withResetPending true).resetPending = true := by
  unfold State.ready
  decide +kernel

theorem witness_HardResetAndRelease :
    (committing library amendT 0 1).engine.inFlight = some ⟨amendT, .direct, 0, 1⟩ ∧
      library.engine.inFlight = none ∧ (library.withPins ⟨true, true⟩).pins.held = true ∧
      (Instr.readStatus 0).form.isSome = true := by decide +kernel

theorem witness_ScanCompletes :
    State.reset.starting = true ∧ State.reset.pins.held = false := by decide +kernel

theorem witness_ReadsAnswer :
    playing.ready ∧ (15#8).toNat = (15 : Fin 16).val ∧ 15 < (16#8).toNat ∧ (63#8).toNat ≤ 63 ∧
      63 < (64#8).toNat ∧ (64#8).toNat ≤ 64 ∧ 64 < (65#8).toNat := by
  unfold State.ready
  decide +kernel

theorem witness_CatalogueListsAnswer :
    library.ready ∧ library.catalogueKept ∧ (32#8).toNat ≤ 32 ∧ 32 < (33#8).toNat ∧
      discs.ready ∧ discs.catalogueKept ∧ (16#8).toNat ≤ 16 ∧ (7#8).toNat ≤ 7 ∧ (15#8).toNat ≤ 15 ∧
      16 < (17#8).toNat ∧ 7 < (8#8).toNat ∧ 15 < (16#8).toNat := by
  unfold State.ready State.catalogueKept
  decide +kernel

/-- At the item's end, and at the last microsecond of C's stored sound. -/
theorem witness_LocateAnswers :
    library.record? 500120 = some itemC ∧ itemC.state ≠ .withdrawn ∧
      itemC.restriction ≤ (7#8).toNat ∧ (30000000#40).toNat = itemC.duration ∧
      (buildPath ⟨library.store.records, 7, fun _ => .none⟩ 500120 30000000).stop = none ∧
      (buildPath ⟨library.store.records, 7, fun _ => .none⟩ 500120 29999999).stop = none ∧
      (∃ f g t, leafOf library.store.records
          (buildPath ⟨library.store.records, 7, fun _ => .none⟩ 500120 29999999).path =
            .transfer f g t ∧
        (29999999 - f.displacement - g.start).toNat * t.rate * t.nominal / (t.speed * 1000000)
          < t.count ∧
        (t.chooseCopy playing.volumes .primaryFirst).isSome = true) := by
  refine ⟨by decide +kernel, by decide +kernel, by decide +kernel, by decide +kernel,
    by decide +kernel, by decide +kernel, ⟨201877, 0, 1, -12500000, false⟩,
    tape 20000000 25000000 5 1905 2400000 7782 0 (some ⟨9, 412, 0⟩),
    ⟨96000, 2, 3, 1905, 1905, 2400000, ⟨3, 7782, 0⟩, some ⟨9, 412, 0⟩⟩, ?_, ?_, ?_⟩ <;>
    decide +kernel

/-- C without its target, and C WITHDRAWN beside T. -/
def broken : State := holding [itemC]
def successorGone : State :=
  holding [itemT, { itemC with state := .withdrawn, segments := [] }]

/-- The records that LOCATE meets its other answers on: an overhang past T's end, and a stored index at the
count at 500,000 and beyond it at 500,011. -/
def overhung : ItemRecord := plainRecord 600002 1000000 0 [⟨0, 1000000, .reference 0 201877 44500000⟩]
def short : ItemRecord := plainRecord 600003 1000000 0 [tape 0 1000000 0 1905 48000 7783 0 none]
def oddments : State := holding [{ itemT with restriction := 3 }, itemC, overhung, short]
def located (s : State) (clearance accession p : Nat) : Walk :=
  buildPath ⟨s.store.records, clearance, fun _ => .none⟩ accession p
theorem witness_LocateElsewhere :
    library.ready ∧ 7 < (8#8).toNat ∧ 68719476735 < (68719476736#40).toNat ∧
      (holding []).record? 201877 = none ∧
      successorGone.record? 500120 = some { itemC with state := .withdrawn, segments := [] } ∧
      oddments.record? 201877 = some { itemT with restriction := 3 } ∧
      strictForm 2 = true ∧ itemC.duration < (30000001#40).toNat ∧
      (located oddments 2 500120 0).stop = some (.fault .restrictedTarget) ∧
      (located broken 7 500120 0).stop = some (.fault .missingTarget) ∧
      (located oddments 7 600002 600000).stop = none ∧
      leafOf oddments.store.records (located oddments 7 600002 600000).path =
        .overhang ⟨201877, 0, 2, -44500000, false⟩ ∧
      leafOf discs.store.records (located discs 0 310402 0).path =
        .lacuna ⟨310402, 0, 0, 0, false⟩ ⟨0, 1000000, .lacuna⟩ := by
  unfold State.ready
  decide +kernel
theorem witness_LocateElsewhere_indexes :
    leafOf oddments.store.records (located oddments 7 600003 500011).path =
        .transfer ⟨600003, 0, 0, 0, false⟩ (tape 0 1000000 0 1905 48000 7783 0 none)
          ⟨96000, 2, 3, 1905, 1905, 48000, ⟨3, 7783, 0⟩, none⟩ ∧
      500000 * 96000 * 1905 / (1905 * 1000000) = 48000 ∧
      500011 * 96000 * 1905 / (1905 * 1000000) = 48001 ∧
      Transfer.chooseCopy ⟨96000, 2, 3, 1905, 1905, 48000, ⟨3, 7783, 0⟩, none⟩ oddments.volumes
        .primaryFirst = none := by
  decide +kernel

/-- One state for each step of the acceptance checks, on an amendment of T. -/
def amendCommand : Instr := .amendSegments 0 201877#24 0 1 1 retransfer
def protecting (s : State) : State :=
  s.withSettings { s.settings with
    protectionEnabled := true, protectionLow := 201877, protectionHigh := 201877 }
theorem witness_AcceptanceOrder :
    amendCommand.wellFormed = true ∧ library.changeOf amendCommand = some (amendT, false) ∧
      (library.withEngine ⟨none, true, none⟩).engine.frozen = true ∧
      library.engine.frozen = false ∧ (protecting library).protectsChange amendT = true ∧
      library.protectsChange amendT = false ∧
      (holding []).recordRefusal amendT false = some .notFound ∧
      library.recordRefusal amendT false = none ∧
      library.contentRefusal (.amendSegments 201877 2 1 1 retransfer) =
        some (.malformed ⟨.amendRange, .arguments⟩) ∧
      library.contentRefusal amendT = none ∧
      (waiting .waiting 0 0).entryRefusal amendT = true := by decide +kernel

/-- T of grade 0, C with its REFERENCE, T with a segment that has no secondary, a disc that passes. -/
theorem witness_ChecksFollowTables :
    amendT.namesItem = true ∧ library.record? amendT.accession = some itemT ∧
      (holding []).record? amendT.accession = none ∧ (Change.certifyItem 310402).namesItem = true ∧
      discs.record? 310402 = some (disc 310402 0 0 .certified .lacquerDisc) ∧
      discs.record? 310401 = some (disc 310401 0 0 .withdrawn .lacquerDisc) ∧
      ({ itemT with grade := 0 } : ItemRecord).grade = 0 ∧ itemC.grade ≠ 0 ∧
      itemC.segments = [] ++ ⟨0, 30000000, .reference (-30) 201877 12500000⟩ :: [] ∧
      (∀ x ∈ itemT.segments, x.isReference = false) ∧
      itemT.segments = [] ++ tape 0 20000000 0 3810 960000 7781 1048576 none ::
        [tape 20000000 25000000 5 1905 2400000 7782 0 (some ⟨9, 412, 0⟩)] ∧
      (∀ x ∈ (disc 310403 0 1 .active .lacquerDisc).segments, x.lacksSecondary = false) := by
  decide +kernel

/-- The last free segment and no vacant slot, on an item that no cursor names. -/
def lastSegment : State := library.withIndex { library.index with vacantSlots := 0, freeSegments := 1 }
theorem witness_ChangeRouted_accepted :
    amendCommand.wellFormed = true ∧ lastSegment.changeOf amendCommand = some (amendT, false) ∧
      lastSegment.ready ∧ lastSegment.passesChecks amendT false ∧
      lastSegment.engine.inFlight = none ∧ lastSegment.index.useCount amendT.accession = 0 ∧
      amendT.slotsNeeded lastSegment.store.records ≤ lastSegment.index.vacantSlots ∧
      amendT.segmentsNeeded ≤ lastSegment.index.freeSegments ∧
      (Change.storeSettings lastSegment.settings).deferrable lastSegment.store.records = false := by
  unfold State.ready State.passesChecks
  decide +kernel

/-- Refused: a CLEAR HOLDINGS in flight, T itself in flight, another change in flight, and no free segment. -/
theorem witness_ChangeRouted_refused :
    (committing library .clearHoldings 0 0).ready ∧
      (committing library .clearHoldings 0 0).passesChecks amendT false ∧
      (committing library (.certifyItem 201877) 0 0).passesChecks amendT false ∧
      (committing library (.certifyItem 500120) 0 0).passesChecks amendT false ∧
      (library.withIndex { library.index with freeSegments := 0 }).passesChecks amendT false ∧
      0 < amendT.segmentsNeeded := by
  unfold State.ready State.passesChecks
  decide +kernel

/-- Seven entries, and eight. -/
def queued (n : Nat) : State :=
  playing.withQueue ((List.range n).map fun k => ⟨k + 1, .certifyItem (k + 1), .waiting, 0, 0⟩)
theorem witness_ChangeRouted_deferred :
    (queued 7).changeOf amendCommand = some (amendT, false) ∧ (queued 7).ready ∧ (queued 8).ready ∧
      (queued 7).passesChecks amendT false ∧ (queued 8).passesChecks amendT false ∧
      (queued 7).blockedByFlight amendT = false ∧
      amendT.deferrable (queued 7).store.records = true ∧
      0 < (queued 7).index.useCount amendT.accession ∧ (queued 7).readyTaken ∧ (queued 8).readyTaken ∧
      0 < (queued 7).settings.tHold1 ∧ (queued 7).queue.length < 8 ∧
      8 ≤ (queued 8).queue.length ∧
      (playing.withSettings { Settings.factory with tHold1 := 0 }).passesChecks amendT false := by
  unfold State.ready State.passesChecks State.readyTaken
  decide +kernel

theorem itemT_tiled : itemT.tiled :=
  ⟨by decide, by decide, rfl, by decide, rfl, by decide, rfl⟩
theorem witness_ContentChecksTile :
    runT.length = expectedSegments writeT.segmentCount ∧ writeReport writeT runT = none ∧
      itemT.tiled ∧ retransfer.length = 1 ∧ amendReport itemT 0 1 1 retransfer = none :=
  ⟨by decide +kernel, by decide +kernel, itemT_tiled, rfl, by decide +kernel⟩

/-- Whether every segment of a run passes its table. -/
def runPasses (d start : Nat) (run : List WireSegment) : Bool :=
  (List.range run.length).all fun k =>
    (run[k]?.map fun g => (segmentTable d (startIn start run k) g).all fun row => !row.2).getD true
theorem segmentPasses_of_run {d start : Nat} {run : List WireSegment} (h : runPasses d start run = true) :
    ∀ k, segmentPasses d start run k := by
  intro k g hg row hrow
  have hk : k < run.length := (List.getElem?_eq_some_iff.mp hg).1
  have := List.all_eq_true.mp h k (List.mem_range.mpr hk)
  rw [hg] at this
  simpa using List.all_eq_true.mp this row hrow

/-- T's second segment with a frame of five bytes and no count: FRAME is reported. Headers of grade 5 and 6,
counts 64 and 65, runs that pass and end at the duration and short of it, and at the old run's end. -/
def badSegment : WireSegment :=
  { wireOfSegment (tape 20000000 25000000 5 1905 2400000 7782 0 none) with
    format := 0x15#8, count := 0#48 }
def badRun : List WireSegment := runT.take 1 ++ [badSegment]
theorem witness_ContentChecksTile_reports :
    failsFirst 45000000 0 badRun 1 .frame ∧ badRun.length = 2 ∧
      (∀ k, segmentPasses 45000000 0 runT k) ∧ startIn 0 runT 2 = 45000000 ∧
      (∀ k, segmentPasses 45000001 0 runT k) ∧ writeT.duration.toNat = 45000000 ∧
      5 < (6#8).toNat ∧ 64 < (65#8).toNat ∧ library.record? 201877 = some itemT ∧
      itemT.segments[0]? ≠ none ∧ itemT.segments[0 + 1 - 1]? ≠ none ∧
      (∀ k, segmentPasses 45000000 0 retransfer k) ∧ startIn 0 retransfer 1 = 20000000 := by
  refine ⟨⟨?_, badSegment, (segmentTable 45000000 20000000 badSegment).take 5,
      (segmentTable 45000000 20000000 badSegment).drop 6, by decide +kernel, by decide +kernel,
      by decide +kernel⟩, by decide +kernel, segmentPasses_of_run (by decide +kernel), by decide +kernel,
    segmentPasses_of_run (by decide +kernel), by decide +kernel, by decide +kernel, by decide +kernel,
    by decide +kernel, by decide +kernel, by decide +kernel, segmentPasses_of_run (by decide +kernel),
    by decide +kernel⟩
  intro j hj g hg
  obtain rfl : j = 0 := by omega
  exact segmentPasses_of_run (run := runT.take 1) (by decide +kernel) 0 g hg

/-- `amendT` in flight from the queue. -/
def takenAmendment : State :=
  (waiting .committing 8000 1).withEngine ⟨some ⟨amendT, .queue, 0, 1⟩, false, none⟩

/-- The same with a READY retirement of C behind it. -/
def behind (s : State) : State := s.withQueue (s.queue ++ [⟨500120, .retireItem 500120 0, .ready, 0, 0⟩])

/-- From the queue and from a command, with nothing READY and with one; a purge, and a create. -/
theorem witness_CommitCompletes :
    takenAmendment.engine.inFlight = some ⟨amendT, .queue, 0, 1⟩ ∧
      (committing library amendT 0 1).engine.inFlight = some ⟨amendT, .direct, 0, 1⟩ ∧
      takenAmendment.resetPending = false ∧ takenAmendment.readyCount = 0 ∧
      (behind takenAmendment).readyCount = 1 ∧ amendT.kind ≠ .clearHoldings ∧
      amendT.namesItem = true ∧ (Change.storeSettings Settings.factory).namesItem = false ∧
      (Change.purgeItem 500120).kind = .purgeItem ∧ successorGone.catalogueKept ∧
      (successorGone.record? 500120).isSome = true ∧ (holding []).record? 201877 = none ∧
      takenAmendment.record? 201877 = some itemT ∧ 0 + 1 ≤ itemT.segments.length ∧
      (committing library (.storeSettings Settings.factory) 0 0).engine.inFlight =
        some ⟨.storeSettings Settings.factory, .direct, 0, 0⟩ ∧
      library.store.settings ≠ some Settings.factory := by
  unfold State.catalogueKept
  decide +kernel

theorem witness_CommitRevises :
    (Change.writeItem writeT runT).namesItem = true ∧ findRecord [] 201877 = none ∧
      (Change.writeItem writeT runT).kind = .writeItem ∧
      findRecord library.store.records amendT.accession = some itemT ∧
      amendT.kind ≠ .purgeItem := by decide +kernel

/-- Cursor 2 names T and C, which are ACTIVE, and cursor 0 names nothing. -/
theorem witness_ClearHoldingsCompletes :
    (committing playing .clearHoldings 0 0).engine.inFlight = some ⟨.clearHoldings, .direct, 0, 0⟩ ∧
      (committing playing .clearHoldings 0 0).resetPending = false ∧
      (committing playing .clearHoldings 0 0).queue = [] ∧
      (playing.cursors.get 2).path.any (fun x => (findRecord [] x.accession).isNone) = true ∧
      (playing.cursors.get 0).path.all (fun x => (findRecord [] x.accession).isSome) = true := by
  decide +kernel

/-- The create of T, whose failure finds no record, and the amendment of T. -/
theorem witness_StoreFaultKeepsVersion :
    (committing (holding []) (.writeItem writeT runT) 1 2).engine.inFlight =
        some ⟨.writeItem writeT runT, .direct, 1, 2⟩ ∧
      (committing (holding []) (.writeItem writeT runT) 1 2).resetPending = false ∧
      (committing (holding []) (.writeItem writeT runT) 1 2).readyCount = 0 ∧
      takenAmendment.engine.inFlight = some ⟨amendT, .queue, 0, 1⟩ ∧
      (behind takenAmendment).resetPending = false ∧ (behind takenAmendment).readyCount = 1 ∧
      takenAmendment.record? amendT.accession = some itemT := by decide +kernel

/-- Nothing to take, the take that passes with no segment to spare, each of the three failures, and a
second READY entry behind one that fails. -/
def deferredRetire : Entry := ⟨201877, .retireItem 201877 500120, .ready, 0, 0⟩
theorem witness_TakeReadyEntry :
    library.readyCount = 0 ∧ takenAmendment.mayTake = false ∧
      (behind (waiting .ready 0 0)).queue = [] ++ ⟨201877, amendT, .ready, 0, 0⟩ ::
        [⟨500120, .retireItem 500120 0, .ready, 0, 0⟩] ∧
      (waiting .ready 0 0).mayTake = true ∧
      (waiting .ready 0 0).queue = [] ++ ⟨201877, amendT, .ready, 0, 0⟩ :: [] ∧
      ((waiting .ready 0 0).queue.map (·.accession)).Nodup ∧
      (waiting .ready 0 0).settings.protects 201877 = false ∧
      amendT.segmentsNeeded ≤ 1 ∧ (∀ a successor, amendT ≠ .retireItem a successor) ∧
      (protecting (waiting .ready 0 0)).settings.protects 201877 = true ∧
      0 < amendT.segmentsNeeded ∧
      deferredRetire.payload = .retireItem 201877 500120 ∧
      (∀ x, successorGone.record? 500120 = some x → x.state = .withdrawn) ∧
      successorGone.record? deferredRetire.accession = some itemT ∧
      deferredRetire.payload.namesItem = true := by
  refine ⟨by decide +kernel, by decide +kernel, rfl, by decide +kernel, rfl, by decide +kernel,
    by decide +kernel, by decide +kernel, nofun, by decide +kernel, by decide +kernel, rfl, ?_,
    by decide +kernel, rfl⟩
  intro x h
  have : successorGone.record? 500120 =
      some { itemC with state := .withdrawn, segments := [] } := by decide +kernel
  rw [this] at h
  cases h
  rfl

theorem witness_CancelPendingAnswers :
    (waiting .ready 8000 1).ready ∧
      (waiting .ready 8000 1).entry? 201877 = some ⟨201877, amendT, .ready, 8000, 1⟩ ∧
      takenAmendment.entry? 201877 = some ⟨201877, amendT, .committing, 8000, 1⟩ ∧
      takenAmendment.ready ∧ (waiting .ready 8000 1).entry? 500120 = none := by
  unfold State.ready
  decide +kernel

/-- FROZEN over an entry: READY with no stage due, and WAITING with stage 2 due. -/
def frozenOver (e : EntryState) (age stage : Nat) : State :=
  ((waiting e age stage).withSettings escalation).withEngine ⟨none, true, none⟩
theorem witness_FreezeAndThaw :
    library.engine.inFlight = none ∧ library.engine.frozen = false ∧
      (library.withEngine ⟨none, true, none⟩).ready ∧
      (library.withEngine ⟨none, true, none⟩).engine.frozen = true ∧
      (library.withEngine ⟨none, true, none⟩).queue = [] ∧
      (committing library amendT 0 1).ready ∧ (frozenOver .ready 0 0).ready ∧
      (∀ e ∈ (frozenOver .ready 0 0).queue, e.state = .waiting →
        e.dueStages (frozenOver .ready 0 0).settings = []) ∧
      (frozenOver .waiting 35000 1).engine.frozen = true ∧
      (frozenOver .waiting 35000 1).queue = [⟨201877, amendT, .waiting, 35000, 1⟩] ∧
      (⟨201877, amendT, .waiting, 35000, 1⟩ : Entry).dueStages escalation = [2] := by
  unfold State.ready
  decide +kernel

/-- Successor links: 600100 refers to 101, and four links lead from there to 105; 600101 refers to 100, from
where a fifth is needed. -/
def tombstone (accession successor : Nat) : ItemRecord :=
  { plainRecord accession 1000000 0 [] with state := .withdrawn, successor := some successor }
def linked : State :=
  holding ([tombstone 100 101, tombstone 101 102, tombstone 102 103, tombstone 103 104, tombstone 104 105,
    plainRecord 105 1000000 0 [⟨0, 1000000, .lacuna⟩],
    plainRecord 600100 1000000 0 [⟨0, 1000000, .reference 0 101 0⟩],
    plainRecord 600101 1000000 0 [⟨0, 1000000, .reference 0 100 0⟩]])
theorem test_four_links_are_followed :
    (located linked 0 600100 999999).path =
      [⟨600100, 0, 0, 0, false⟩, ⟨105, 0, 0, 0, true⟩] ∧
    (located linked 0 600100 999999).stop = none := by decide +kernel
theorem test_fifth_link_faults :
    (located linked 0 600101 0).stop = some (.fault .successorChain) := by decide +kernel

/-- The top frame's three checks, the item's end, an advance that turns T's frame, and an entry of stage 3
that is READY, and COMMITTING. -/
theorem witness_PathsResolve :
    findRecord [] 500120 = none ∧
      findRecord successorGone.store.records 500120 =
        some { itemC with state := .withdrawn, segments := [] } ∧
      findRecord oddments.store.records 201877 = some { itemT with restriction := 3 } ∧
      findRecord library.store.records 201877 = some itemT ∧ itemT.state ≠ .withdrawn ∧
      itemT.restriction ≤ (library.view 0).clearance ∧ itemT.tiled ∧ itemT.duration = 45000000 ∧
      (⟨500120, 0, 0, 0, false⟩ : PathFrame).turnsAt (playing.view 0).records 7500000 = false ∧
      (⟨201877, 0, 0, -12500000, false⟩ : PathFrame).turnsAt (playing.view 0).records 7500000 = true ∧
      tilesFrom 0 itemT.segments 45000000 ∧
      (⟨201877, amendT, .ready, 95000, 3⟩ : Entry) ∈ (waiting .ready 95000 3).queue ∧
      ((waiting .ready 95000 3).queue.map (·.accession)).Nodup ∧
      (⟨201877, amendT, .committing, 95000, 3⟩ : Entry) ∈ (waiting .committing 95000 3).queue := by
  refine ⟨rfl, by decide +kernel, by decide +kernel, by decide +kernel, by decide +kernel,
    by decide +kernel, itemT_tiled, rfl, by decide +kernel, by decide +kernel, itemT_tiled.2.2,
    by decide +kernel, by decide +kernel, by decide +kernel⟩

/-- What path work on T leaves: nothing queued; an entry that comes back to WAITING with no stage due; and one
with a stage due. -/
def returning (age : Nat) : State :=
  (committing playing (.storeSettings Settings.factory) 0 0).withQueue
    [⟨201877, amendT, .ready, age, 0⟩]
theorem witness_pathWorkEnds :
    playing.queue = [] ∧ ((returning 4999).queue.map (·.accession)).Nodup ∧
      (∀ e ∈ (returning 4999).queue, e.dueStages (returning 4999).settings = []) ∧
      (⟨201877, amendT, .ready, 5000, 0⟩ : Entry) ∈ (returning 5000).queue ∧
      0 < framesNaming (returning 5000).cursors 201877 ∧
      (⟨201877, amendT, .ready, 5000, 0⟩ : Entry).dueStages (returning 5000).settings = [1] := by
  decide +kernel

/-- Each clause of OPEN CURSOR: the end of the item, a stop by a fault, and a stop by a DETACH. -/
def detaching : State := (waiting .waiting 95000 3).withSettings escalation
theorem witness_OpenCursorSets :
    library.ready ∧ (2#8).toNat = (2 : Fin 16).val ∧
      openInRange 30000000#40 10000#24 7 3 120#16 = true ∧
      CopyPreference.ofByte 3 = some .secondaryOnly ∧ (library.cursors.get 2).state = .closed ∧
      library.record? (500120#24).toNat = some itemC ∧ itemC.state ≠ .withdrawn ∧
      itemC.restriction ≤ (7#8).toNat ∧ (30000000#40).toNat ≤ itemC.duration ∧
      (buildPath (library.view 7) 500120 30000000).stop = none ∧
      (buildPath (broken.view 7) 500120 0).stop = some (.fault .missingTarget) ∧
      (buildPath (detaching.view 7) 500120 0).stop = some .detached := by
  unfold State.ready
  decide +kernel

/-- One microsecond beyond the end in the strict form, the end itself, and a FAULTED cursor whose top record
is gone. -/
def topGone : State := (holding [itemT]).setCursor 2 { desk with state := .faulted, path := [] }
theorem witness_SeekMoves :
    playing.ready ∧ (2#8).toNat = (2 : Fin 16).val ∧ (playing.cursors.get 2).state ≠ .closed ∧
      (playing.cursors.get 2).state ≠ .detached ∧
      playing.record? (playing.cursors.get 2).top = some itemC ∧
      seekTarget 0 30000001#40 7400000 = some 30000001 ∧
      seekTarget 0 30000000#40 7400000 = some 30000000 ∧ strictForm 2 = true ∧
      strictForm 0 = false ∧ (itemC.duration : Int) < 30000001 ∧ playing.queue = [] ∧
      topGone.ready ∧ (topGone.cursors.get 2).state = .faulted ∧
      topGone.record? (topGone.cursors.get 2).top = none ∧ topGone.queue = [] := by
  unfold State.ready
  decide +kernel

theorem witness_LoopsSet :
    playing.ready ∧ (playing.cursors.get 2).state ≠ .closed ∧
      (playing.cursors.get 2).state ≠ .detached ∧
      playing.record? (playing.cursors.get 2).top = some itemC ∧
      (68719476735#40).toNat ≤ 68719476735 ∧ 10000 ≤ (10000#40).toNat ∧ 10000 ≤ itemC.duration ∧
      strictForm 2 = true ∧ itemC.duration < (29990001#40).toNat + (10000#40).toNat ∧
      (29990000#40).toNat + (10000#40).toNat ≤ itemC.duration := by
  unfold State.ready
  decide +kernel

/-- Each refusal of the cursor commands at a boundary of its range. -/
theorem witness_CursorCommandsRefused :
    playing.ready ∧ 15 < (16#8).toNat ∧ 3 < (4#8).toNat ∧ (2#8).toNat = (2 : Fin 16).val ∧
      openInRange 68719476735#40 2000000#24 7 3 120#16 = true ∧
      (playing.cursors.get 2).state = .open ∧ (library.cursors.get 2).state = .closed ∧
      library.record? 1 = none ∧
      successorGone.record? 500120 = some { itemC with state := .withdrawn, segments := [] } ∧
      oddments.record? 201877 = some { itemT with restriction := 3 } ∧ strictForm 2 = true ∧
      itemC.duration < (30000001#40).toNat := by
  unfold State.ready
  decide +kernel
theorem witness_CursorCommandsRefused_loops :
    ((withDesk { desk with state := .detached, path := [] }).cursors.get 2).state = .detached ∧
      topGone.record? (topGone.cursors.get 2).top = none ∧
      playing.record? (playing.cursors.get 2).top = some itemC ∧ (9999#40).toNat < 10000 := by
  decide +kernel

/-- A cursor CLOSED, DETACHED, FAULTED, and one that stalls. -/
def faultedDesk : Cursor := { desk with state := .faulted, path := [], fault := some .depth }
theorem witness_FetchAnswers :
    library.ready ∧ (library.cursors.get 2).state = .closed ∧
      (withDesk { desk with state := .detached, path := [] }).ready ∧
      ((withDesk faultedDesk).cursors.get 2).state = .faulted ∧ playing.queue = [] ∧
      (desk.fetched (library.view 0) library.volumes 2).descriptor.kind = .unavailable := by
  unfold State.ready
  decide +kernel

/-- The span of section 11.4's first FETCH, with a copy and with none. -/
theorem witness_FetchDescriptors :
    desk.state ≠ .detached ∧ desk.state ≠ .faulted ∧
      pathCurrent (playing.view 0).records desk.path = true ∧
      findRecord (playing.view 0).records desk.top = some itemC ∧ desk.position < itemC.duration ∧
      leafOf (playing.view 0).records desk.path =
        .transfer ⟨201877, 0, 0, -12500000, false⟩ (tape 0 20000000 0 3810 960000 7781 1048576 none)
          ⟨96000, 2, 3, 1905, 3810, 960000, ⟨3, 7781, 1048576⟩, none⟩ ∧
      desk.spanEnd (playing.view 0).records itemC.duration = 7500000 ∧
      min ((7400000 + 12500000 - 0) * 96000 * 1905 / (3810 * 1000000)) 960000 <
        min ((7500000 + 12500000 - 0) * 96000 * 1905 / (3810 * 1000000)) 960000 ∧
      Transfer.chooseCopy ⟨96000, 2, 3, 1905, 3810, 960000, ⟨3, 7781, 1048576⟩, none⟩
        playing.volumes desk.preference = some (.primary, ⟨3, 7781, 1048576⟩) ∧
      Transfer.chooseCopy ⟨96000, 2, 3, 1905, 3810, 960000, ⟨3, 7781, 1048576⟩, none⟩
        library.volumes desk.preference = none := by
  decide +kernel

/-- A cursor on one record, at a position. -/
def onItem (accession position segment : Nat) : Cursor :=
  { desk with top := accession, position := position, path := [⟨accession, 0, segment, 0, false⟩] }
/-- A span of no stored sample, a LACUNA, an overhang, and the item's end. -/
theorem witness_FetchDescriptors_others :
    min (500000 * 96000 * 1905 / (1905 * 1000000)) 48000 = 48000 ∧
      pathCurrent oddments.store.records (onItem 600003 500000 0).path = true ∧
      (onItem 600003 500000 0).spanEnd oddments.store.records 1000000 = 600000 ∧
      leafOf discs.store.records (onItem 310402 0 0).path =
        .lacuna ⟨310402, 0, 0, 0, false⟩ ⟨0, 1000000, .lacuna⟩ ∧
      leafOf oddments.store.records
          [⟨600002, 0, 0, 0, false⟩, ⟨201877, 0, 2, -44500000, false⟩] =
        .overhang ⟨201877, 0, 2, -44500000, false⟩ ∧
      pathCurrent library.store.records (onItem 500120 30000000 1).path = true ∧
      findRecord library.store.records 500120 = some itemC ∧ itemC.duration ≤ 30000000 := by
  decide +kernel

/-- The section 11.4 FETCH, which turns T's frame; the same with a loop that ends at its span's end; a turn
into a target that is gone; and a path that turns nowhere. -/
def looped : Cursor := { desk with loop := some ⟨7000000, 7500000⟩ }
theorem witness_FetchMoves :
    (desk.fetched (playing.view 0) playing.volumes 2).descriptor.kind = .audio ∧
      looped.spanEnd (playing.view 0).records itemC.duration = 7500000 ∧
      looped.loop.filter (fun l => decide (l.stop ≤ itemC.duration ∧ looped.position < l.stop ∧
        l.stop = 7500000)) = some ⟨7000000, 7500000⟩ ∧
      (buildPath (playing.view 0) 500120 7000000).stop = none ∧
      (advancePath (playing.view 0) desk.path 7500000).path =
        [⟨500120, 0, 0, 0, false⟩] ++ ⟨201877, 0, 1, -12500000, false⟩ :: [] ∧
      (⟨500120, 0, 0, 0, false⟩ : PathFrame).turnsAt (playing.view 0).records 7500000 = false ∧
      (⟨201877, 0, 0, -12500000, false⟩ : PathFrame).turnsAt (playing.view 0).records 7500000 = true ∧
      (desk.path.any fun f => f.turnsAt (playing.view 0).records 7400000) = false := by
  decide +kernel

/-- The path of section 11.4 after T is amended: built anew; and with T gone: FAULTED. -/
theorem witness_FetchRebuilds :
    pathCurrent (playing.view 0).records desk.path = true ∧
      pathCurrent (amendT.applyRecords library.store.records) desk.path = false ∧
      (buildPath ⟨amendT.applyRecords library.store.records, 0, fun _ => .none⟩ desk.top
        desk.position).stop = none ∧
      pathCurrent broken.store.records desk.path = false ∧
      (buildPath (broken.view 0) desk.top desk.position).stop = some (.fault .missingTarget) ∧
      (buildPath ((detaching.view 0)) desk.top desk.position).stop = some .detached := by
  decide +kernel

theorem witness_FetchStaysWithin :
    (desk.fetched (playing.view 0) playing.volumes 2).descriptor.kind = .audio := by decide +kernel

/-- A CLOSED cursor, one with nothing queued, and one whose close makes T's entry READY. -/
theorem witness_CloseCursorClears :
    library.ready ∧ (library.cursors.get 2).state = .closed ∧ playing.ready ∧
      (playing.cursors.get 2).state ≠ .closed ∧ playing.queue = [] ∧
      (playing.withNotices { Notices.afterReset with
        cursorStalled := 4#16 }).notices.cursorStalled.getLsbD 2 = true ∧
      (waiting .waiting 0 0).ready ∧
      (∀ e ∈ (waiting .waiting 0 0).queue, e.state = .ready →
        framesNaming (waiting .waiting 0 0).cursors e.accession = 0) ∧
      framesNaming ((waiting .waiting 0 0).cursors.set 2 Cursor.closed) 201877 = 0 := by
  unfold State.ready
  decide +kernel

theorem witness_UseCountsSettle :
    ∃ t, playing.ready ∧ exec (.closeCursor 0 2) playing = .next t ∧
      t.hasAnswered (.closeCursor 0 2) ⟨.ok, []⟩ := by
  refine ⟨_, playing_ready, rfl, ?_⟩
  unfold State.hasAnswered
  decide +kernel

def volumeAt (e : Volume) : State := library.setVolume 63 e

/-- One report below the threshold, one that meets it, and each other health. -/
theorem witness_ReportFaultCounts :
    library.ready ∧ (63#8).toNat = (63 : Fin 64).val ∧
      (library.volumes.get 63).health = .unregistered ∧
      ((volumeAt ⟨.online, 1, .idle⟩).volumes.get 63).faultCount + 1 <
        library.settings.faultThreshold ∧
      library.settings.faultThreshold ≤
        ((volumeAt ⟨.online, 2, .idle⟩).volumes.get 63).faultCount + 1 ∧
      ((volumeAt ⟨.failed, 2, .idle⟩).volumes.get 63).health = .failed ∧
      ((volumeAt ⟨.settling, 2, .idle⟩).volumes.get 63).health = .settling := by
  unfold State.ready
  decide +kernel

theorem witness_FaultWindowForgives :
    (volumeAt ⟨.online, 1, .running .tFwin 0⟩).volumes.get 63 = ⟨.online, 1, .running .tFwin 0⟩ ∧
      0 < library.settings.tFwin ∧ (volumeAt ⟨.online, 1, .running .tFwin 0⟩).ready ∧
      1 < library.settings.faultThreshold ∧ 1 + 1 < library.settings.faultThreshold := by
  unfold State.ready
  decide +kernel

theorem witness_ProbesBegin :
    (volumeAt ⟨.failed, 3, .running .tPwait 0⟩).ready ∧
      (volumeAt ⟨.failed, 3, .running .tPwait 0⟩).volumes.get 63 = ⟨.failed, 3, .running .tPwait 0⟩ ∧
      (volumeAt ⟨.settling, 3, .idle⟩).ready ∧
      ((volumeAt ⟨.settling, 3, .idle⟩).volumes.get 63).health = .settling ∧
      (library.settings.policies.get 63).autoProbe = true ∧
      ((Table.fill 64 (⟨true, false, false⟩ : VolumePolicy)).get 63).autoProbe = false := by
  unfold State.ready
  decide +kernel

theorem witness_ProbesEnd :
    (volumeAt ⟨.probing, 3, .running .tPto 0⟩).ready ∧
      (volumeAt ⟨.probing, 3, .running .tPto 0⟩).volumes.get 63 = ⟨.probing, 3, .running .tPto 0⟩ ∧
      (volumeAt ⟨.failed, 3, .idle⟩).ready ∧
      ((volumeAt ⟨.failed, 3, .idle⟩).volumes.get 63).health = .failed := by
  unfold State.ready
  decide +kernel

theorem witness_SettlingEnds :
    (volumeAt ⟨.settling, 3, .running .tStable 0⟩).volumes.get 63 =
        ⟨.settling, 3, .running .tStable 0⟩ ∧
      (library.settings.policies.get 63).autoReturn = true ∧
      ((Table.fill 64 (⟨true, false, false⟩ : VolumePolicy)).get 63).autoReturn = false := by
  decide +kernel

theorem witness_VolumesFailAndReturn :
    (volumeAt ⟨.probing, 3, .idle⟩).ready ∧ (63#8).toNat = (63 : Fin 64).val ∧
      ((volumeAt ⟨.probing, 3, .idle⟩).volumes.get 63).health ≠ .unregistered := by
  unfold State.ready
  decide +kernel

theorem witness_NoticeCommandsAct :
    startedPending.ready ∧ startedPending.notices.latched = false ∧
      startedPending.notices.enabledPending startedPending.settings.noticeEnables = true ∧
      library.ready ∧ library.notices.enabledPending library.settings.noticeEnables = false ∧
      (library.withNotices { Notices.afterReset with latched := true }).ready := by
  unfold State.ready
  decide +kernel

/-- The greatest value a setting admits, one beyond it, and a number that names no setting. -/
theorem witness_SettingsWriteAndRead :
    library.ready ∧ settingNamed 0x1A 63 = some (.autoReturn, 63) ∧
      SettingName.autoReturn.admits (1#32).toNat = true ∧
      SettingName.autoReturn.admits (2#32).toNat = false ∧ settingNamed 0x1A 64 = none ∧
      settingNamed 0x07 0 = none ∧ settingNamed 0x18 63 = some (.registered, 63) ∧
      settingNamed 0x20 0 = some (.noticeEnables, 0) ∧ settingNamed 0x08 0 = some (.tHold1, 0) ∧
      SettingName.tHold1.admits 0 = true ∧ (waiting .waiting 5000 0).settings.tHold1 ≠ 0 ∧
      ((waiting .waiting 5000 0).queue.map (·.accession)).Nodup ∧
      (waiting .waiting 5000 0).queue.map
        (·.dueStages { (waiting .waiting 5000 0).settings with tHold1 := 0 }) ≠ [[]] := by
  unfold State.ready
  decide +kernel

theorem witness_RegistrationGovernsVolumes :
    library.ready ∧ (63#8).toNat = (63 : Fin 64).val ∧ 63 < (64#8).toNat ∧
      (library.volumes.get 63).health = .unregistered ∧
      (library.settings.policies.get 63).registered = false := by
  unfold State.ready
  decide +kernel

theorem witness_ClearConditionClears :
    library.ready ∧ (library.withStarting true).takesCommand = true ∧
      (library.withStarting true).starting = true ∧
      (library.withStarting true).resolution = ⟨.none, false, false, false, false⟩ ∧
      (library.withPins ⟨true, true⟩).pins.held = true ∧
      (ordered library).pins.selectLow = true ∧ (ordered library).link.resetOrdered = true ∧
      (ordered library).engine.inFlight = none ∧
      ((committing library amendT 0 1).withResetPending true).engine.inFlight.isSome = true ∧
      ∃ t, exec .frameOpen (library.withStarting true) = .next t := by
  exact ⟨library_ready, by decide +kernel, by decide +kernel, by decide +kernel, by decide +kernel,
    by decide +kernel, by decide +kernel, by decide +kernel, by decide +kernel, _, rfl⟩

/-- A timer one millisecond from its expiry and an age one from its threshold, THAWED and FROZEN. -/
def nearlyDue (frozen : Bool) : State :=
  ((waiting .waiting 4999 0).setVolume 3 ⟨.online, 1, .running .tFwin 1⟩).withEngine
    ⟨none, frozen, none⟩
theorem nearlyDue_timers : ∀ v i, ((nearlyDue false).volumes.get v).timer ≠ .running i 0 := by
  intro v i
  revert v
  cases i <;> decide +kernel
/-- The age comes to stage 1's threshold in the tick, and stays below it in a FROZEN engine. -/
theorem witness_TickCounts :
    (nearlyDue false).pins.held = false ∧ (nearlyDue true).readyTaken ∧ (nearlyDue true).engine.frozen = true ∧
      (∀ v i, ((nearlyDue false).volumes.get v).timer ≠ .running i 0) ∧
      (∀ e ∈ (nearlyDue true).queue, e.state = .waiting → e.dueStages (nearlyDue true).settings = []) ∧
      (nearlyDue false).engine.frozen = false ∧
      ⟨201877, amendT, .waiting, 4999, 0⟩ ∈ (nearlyDue false).queue ∧
      ((nearlyDue false).queue.map (·.accession)).Nodup ∧
      (⟨201877, amendT, .waiting, 5000, 0⟩ : Entry).dueStages (nearlyDue false).settings = [1] := by
  refine ⟨rfl, by unfold State.readyTaken; decide +kernel, rfl, nearlyDue_timers, by decide +kernel, rfl,
    by decide +kernel, by decide +kernel, by decide +kernel⟩

/-- An expiry left due on volume 3, with none on a lower one. -/
theorem witness_TickCounts_due :
    (library.setVolume 3 ⟨.failed, 3, .running .tPwait 0⟩).pins.held = false ∧
      ((library.setVolume 3 ⟨.failed, 3, .running .tPwait 0⟩).volumes.get 3).timer =
        .running .tPwait 0 ∧
      (∀ w : Fin 64, w < 3 →
        ((library.setVolume 3 ⟨.failed, 3, .running .tPwait 0⟩).volumes.get w).timer = .idle) ∧
      0 < library.settings.tPwait ∧ 0 < library.settings.tPto := by decide +kernel

/-- Stage 2 met exactly, with the action that the settings give it; stage 3 met exactly. -/
def atStage (age stage : Nat) (st : Settings) : State :=
  (waiting .waiting age stage).withSettings st
theorem witness_StageReachedActs :
    (atStage 35000 1 escalation).engine.frozen = false ∧
      (atStage 35000 1 escalation).settled ∧
      (atStage 35000 1 escalation).entry? 201877 = some ⟨201877, amendT, .waiting, 35000, 1⟩ ∧
      ((atStage 35000 1 escalation).queue.map (·.accession)).Nodup ∧
      escalation.threshold 2 ≤ 35000 ∧ 35000 < escalation.threshold 3 ∧
      escalation.action 1 = .notify ∧ escalation.action 2 = .yield ∧
      (atStage 95000 2 escalation).settled ∧ escalation.threshold 3 ≤ 95000 ∧
      escalation.action 3 = .detach ∧ Settings.factory.action 3 = .none ∧
      (desk.path.any fun f => f.accession == 201877) = true ∧
      (Cursor.closed.path.any fun f => f.accession == 201877) = false := by
  unfold State.settled State.readyTaken
  decide +kernel

/-- Three stages met at once: NOTIFY, YIELD and then DETACH. -/
theorem witness_StageReachedActs_several :
    (atStage 95000 0 escalation).settled ∧ escalation.threshold 3 ≤ 95000 ∧
      ([escalation.act1, escalation.act2, escalation.act3].take 3).drop 0 =
        [.notify, .yield] ++ Action.detach :: [] := by
  unfold State.settled State.readyTaken
  decide +kernel

/-- A step of `playing` that closes its cursor, from a state that meets every invariant. -/
def closing : State := playing.withPending [.closeCursor 0 2]

theorem closing_steps : ∃ t, step closing = .next t := ⟨_, rfl⟩
theorem closing_queue : closing.queue = [] := by decide +kernel
theorem closing_inFlight : closing.engine.inFlight = none := by decide +kernel
theorem closing_records : closing.store.records = [itemT, itemC] := by decide +kernel
theorem closing_started : closing.starting = false := by decide +kernel
theorem witness_LatchInvariant : closing.latchSettled := by unfold State.latchSettled; decide +kernel
theorem witness_QueueInvariant : closing.queueBounded ∧ closing.readyTaken := by
  unfold State.queueBounded State.readyTaken
  decide +kernel
theorem witness_StoreInvariant : closing.storeSound := by
  refine ⟨by unfold State.catalogueKept; decide +kernel, ?_, by unfold State.storeConserved; decide +kernel⟩
  simp [State.changesSound, closing_queue, closing_inFlight]
theorem witness_CursorInvariant : closing.cursorsCoherent := by
  unfold State.cursorsCoherent Cursor.coherent
  decide +kernel
theorem witness_UseCountInvariant : closing.usesSound := by
  refine ⟨witness_StoreInvariant, by unfold State.usesExact; decide +kernel, by decide +kernel, ?_⟩
  simp [closing_started, closing_inFlight]
theorem closing_apart : closing.changesApart := by
  simp [State.changesApart, closing_queue, closing_inFlight]
theorem witness_QueueAgreesInvariant : closing.queueSound :=
  ⟨witness_UseCountInvariant, closing_apart, by unfold State.pendingExact; decide +kernel,
    by simp [State.entriesFollow, closing_queue]⟩
theorem itemC_tiled : itemC.tiled := ⟨by decide, by decide, rfl, by decide, rfl⟩
theorem witness_TilingInvariant : closing.listsSound := by
  refine ⟨witness_StoreInvariant, closing_apart, ?_, by simp [closing_inFlight], by simp [closing_queue]⟩
  intro r hr
  have : r = itemT ∨ r = itemC := by simpa [closing_records] using hr
  rcases this with rfl | rfl
  · exact ⟨fun _ => itemT_tiled, nofun⟩
  · exact ⟨fun _ => itemC_tiled, nofun⟩
/-- Volume 3 registered and ONLINE. -/
def shelved : State :=
  (library.withSettings { Settings.factory with
    policies := Settings.factory.policies.set 3 ⟨true, true, true⟩ }).setVolume 3 online
theorem witness_VolumeInvariant : shelved.volumesSound := by
  have range : shelved.settings.inRange := by
    intro name
    cases name <;> decide +kernel
  have stored : shelved.store.settings = none := by decide +kernel
  have flight : shelved.engine.inFlight = none := by decide +kernel
  have queue : shelved.queue = [] := by decide +kernel
  have entries : ∀ v, shelved.volumes.get v = online ∧ (shelved.settings.policies.get v).registered = true ∨
      shelved.volumes.get v = ⟨.unregistered, 0, .idle⟩ ∧
        (shelved.settings.policies.get v).registered = false := by decide +kernel
  refine ⟨⟨range, by simp [stored], by simp [flight], by simp [queue]⟩, fun v => ?_⟩
  rcases entries v with ⟨e, r⟩ | ⟨e, r⟩ <;> rw [e, r]
  · exact ⟨rfl, .inl ⟨rfl, rfl⟩⟩
  · exact ⟨rfl, rfl, rfl⟩
theorem witness_CursorsStandInvariant : closing.cursorsStand ∧ closing.revisionsFresh := by
  refine ⟨⟨witness_TilingInvariant, witness_CursorInvariant, fun c hc hs => ?_⟩,
    by simp [State.revisionsFresh, closing_inFlight]⟩
  have only : ∀ c ∈ closing.cursors.list, c.state ≠ .closed → c = desk := by decide +kernel
  rw [only c hc hs]
  refine ⟨nofun, by decide +kernel, nofun, fun r hr => ?_⟩
  have : findRecord closing.store.records desk.top = some itemC := by decide +kernel
  rw [this] at hr
  cases hr
  decide +kernel

end Sys2Proof.Tests
end

section
/-! SUPPORT. What a command can leave in the resolution unit: a part that is STARTING hands no command to a
block that notes a condition, and a reset leaves the condition NONE and the sticky flags clear (R22, R56,
R188). -/

namespace Sys2Proof.Machine

/-! ### The resolution unit under the shared operations -/

@[simp] theorem State.startUp_resolution (pending : List Instr) (selectLow : Bool) (store : Store)
    (k : Nat) : (State.startUp pending selectLow store k).resolution = Resolution.clear := rfl

@[simp] theorem State.softReset_resolution (s : State) : s.softReset.resolution = Resolution.clear := rfl

@[simp] theorem State.awaitArguments_resolution (s : State) (i : Instr) :
    (s.awaitArguments i).resolution = s.resolution := rfl

@[simp] theorem State.moveVolume_resolution (s : State) (v : Fin 64) (m : VolumeMove) :
    (s.moveVolume v m).resolution = s.resolution := by
  obtain ⟨n, h, -⟩ := s.moveVolume_eq v m
  simp [h]

@[simp] theorem State.expire_resolution (s : State) (v : Fin 64) (i : Interval) :
    (s.expire v i).resolution = s.resolution := by
  rcases s.expire_cases v i with h | ⟨-, h⟩ <;> simp [h]

@[simp] theorem State.tick_resolution (s : State) : s.tick.resolution = s.resolution :=
  State.tick_keeps (P := fun t => t.resolution = s.resolution)
    (fun _ _ _ h => by simpa using h) (fun _ h => by simpa using h)
    (fun _ h => by simpa using h) (fun _ h => by simpa using h) rfl

@[simp] theorem State.repeatStatus_resolution (s : State) :
    s.repeatStatus.resolution = s.resolution := by
  unfold State.repeatStatus
  split <;> rfl

@[simp] theorem State.openFrame_resolution (s : State) : s.openFrame.resolution = s.resolution := by
  unfold State.openFrame
  dsimp only
  split <;> rfl

/-- The end of a frame leaves the resolution unit, unless a soft reset takes effect there (R192, R193). -/
theorem State.endFrame_resolution (s : State) (sampled : List Lanes) :
    (s.endFrame sampled).resolution =
      if s.link.resetOrdered = true ∧ s.committing = false then Resolution.clear else s.resolution := by
  cases ho : s.link.resetOrdered <;> cases hc : s.committing <;> simp [State.endFrame, ho, hc]

/-! ### The resolution unit at the end of a commit -/

@[simp] theorem State.install_resolution (s : State) (c : Change) :
    (s.install c).resolution = s.resolution := by
  by_cases hk : c.kind = .clearHoldings
  · cases c <;> simp [Change.kind] at hk
    simp [State.install, State.dropRemoved_eq]
  · simp [State.install_of_ne hk]

@[simp] theorem State.install_resetPending (s : State) (c : Change) :
    (s.install c).resetPending = s.resetPending := by
  obtain ⟨-, -, -, -, -, -, -, h, -⟩ := s.install_core c
  exact h

@[simp] theorem State.releaseEntry_resolution (s : State) (f : InFlight) :
    (s.releaseEntry f).resolution = s.resolution := by
  rcases s.releaseEntry_cases f with ⟨-, h⟩ | ⟨-, h⟩ <;> simp [h]

@[simp] theorem State.releaseEntry_resetPending (s : State) (f : InFlight) :
    (s.releaseEntry f).resetPending = s.resetPending := by
  rcases s.releaseEntry_cases f with ⟨-, h⟩ | ⟨-, h⟩ <;> simp [h]

/-- What follows a completion leaves the resolution unit, unless a soft reset was pending (R154). -/
theorem State.afterCompletion_resolution (s : State) :
    s.afterCompletion.resolution = if s.resetPending then Resolution.clear else s.resolution := by
  rcases s.afterCompletion_cases with ⟨hp, h⟩ | ⟨hp, h⟩ <;> simp [h, hp]

theorem State.complete_resolution (s : State) (f : InFlight) :
    (s.complete f).resolution = if s.resetPending then Resolution.clear else s.resolution := by
  simp [State.complete, State.afterCompletion_resolution]

theorem State.failStore_resolution (s : State) (f : InFlight) :
    (s.failStore f).resolution = if s.resetPending then Resolution.clear else s.resolution := by
  simp [State.failStore, State.afterCompletion_resolution]

/-- Both ends of a commit leave the resolution unit, unless a soft reset was pending (R154). -/
theorem exec_commitEnd_resolution {i : Instr} {s t : State} {f : InFlight}
    (hi : i = .commitComplete ∨ i = .commitStoreFault) (hf : s.engine.inFlight = some f)
    (ht : exec i s = .next t) :
    t.resolution = if s.resetPending then Resolution.clear else s.resolution := by
  rcases hi with rfl | rfl
  · obtain rfl : s.complete f = t := by simpa [exec, execCommitComplete, hf] using ht
    exact s.complete_resolution f
  · obtain rfl : s.failStore f = t := by simpa [exec, execCommitStoreFault, hf] using ht
    exact s.failStore_resolution f

/-! ### Resets -/

/-- A step in which a reset takes effect: RESET_N falling, RESET_N rising on a part held, the end of the
frame that ordered a soft reset, and the end of the commit that a soft reset waits for (R154, R191, R192). -/
def State.resetsOn (s : State) (i : Instr) : Prop :=
  (∃ mark, i = .hardReset mark) ∨ (i = .resetNRelease ∧ s.pins.held = true) ∨
  (∃ sampled, i = .frameEnd sampled ∧ s.pins.selectLow = true ∧ s.link.resetOrdered = true ∧
    s.engine.inFlight = none) ∨
  ((i = .commitComplete ∨ i = .commitStoreFault) ∧ s.engine.inFlight.isSome = true ∧
    s.resetPending = true)

/-- Every reset clears the condition and the sticky flags (R56). -/
theorem exec_resolution_of_resetsOn {i : Instr} {s t : State} (h : s.resetsOn i)
    (ht : exec i s = .next t) : t.resolution = Resolution.clear := by
  rcases h with ⟨mark, rfl⟩ | ⟨rfl, hh⟩ | ⟨sampled, rfl, hl, ho, hf⟩ | ⟨hi, hf, hp⟩
  · cases ht
    rfl
  · cases ht
    simp [hh]
  · cases ht
    have idle : s.committing = false := by simp [State.committing, hf]
    simp [hl, State.endFrame_resolution, ho, idle]
  · obtain ⟨f, hf⟩ := Option.isSome_iff_exists.1 hf
    simpa [hp] using exec_commitEnd_resolution hi hf ht

/-! ### A part that is STARTING -/

/-- A command whose block leaves the resolution unit leaves it. -/
theorem linkCommand_resolution {i : Instr} {readiness : State → Option Response}
    {effect : State → State × Response} {s : State}
    (he : readiness s = none → (effect s).1.resolution = s.resolution) :
    (linkCommand i readiness effect s).resolution = s.resolution := by
  rcases linkCommand_cases i readiness effect s with ⟨-, h⟩ | ⟨-, _, -, h⟩ | ⟨-, hr, h⟩ <;> rw [h]
  · exact State.respond_resolution ..
  · exact he hr

/-- While the part is STARTING the readiness check turns a command away from its block (R188). -/
theorem hostCommand_resolution_of_starting {i : Instr} {effect : State → State × Response} {s : State}
    (hs : s.starting = true) : (hostCommand i effect s).resolution = s.resolution :=
  linkCommand_resolution fun hr => by simp [(notReadyAnswer_eq_none.1 hr).1] at hs

/-- A step of a part that is STARTING leaves the resolution unit, or clears it by a reset (R56). -/
theorem exec_resolution_of_starting {i : Instr} {s t : State} (hs : s.starting = true)
    (ht : exec i s = .next t) : t.resolution = s.resolution ∨ t.resolution = Resolution.clear := by
  cases i
  case readItem | readSegments | enumerate | findCarrier | locate | setItemFields | certifyItem |
      retireItem | purgeItem | clearHoldings | storeSettings | cancelPending | readPending | thaw |
      openCursor | seek | setLoop | clearLoop | fetch | closeCursor | readCursor | reportFault |
      probeResult | probeVolume | failVolume | restoreVolume | readVolumes | armNotices | takeNotices |
      enableNotices | setSetting | readSetting | clearCondition | reset =>
    cases ht
    exact .inl (hostCommand_resolution_of_starting hs)
  case writeItem | amendSegments =>
    simp only [exec, execWriteItem, execAmendSegments] at ht
    split_ifs at ht <;> cases ht
    · exact .inl (State.awaitArguments_resolution ..)
    · exact .inl rfl
    · exact .inl (hostCommand_resolution_of_starting hs)
  case freeze =>
    cases ht
    exact .inl (linkCommand_resolution fun hr => by simp [freezeReadiness, hs] at hr)
  case readStatus =>
    cases ht
    split
    · exact .inl s.repeatStatus_resolution
    · exact .inl (linkCommand_resolution fun _ => rfl)
  case readIdentity =>
    cases ht
    exact .inl (linkCommand_resolution fun _ => rfl)
  case unknownCommand =>
    cases ht
    split
    · exact .inl rfl
    · exact .inl (linkCommand_resolution fun _ => rfl)
  case frameOpen =>
    cases ht
    split
    · exact .inl rfl
    · exact .inl s.openFrame_resolution
  case frameEnd sampled =>
    cases ht
    split
    · rw [State.endFrame_resolution]
      split
      · exact .inr rfl
      · exact .inl rfl
    · exact .inl rfl
  case hardReset mark => exact .inr (exec_resolution_of_resetsOn (.inl ⟨mark, rfl⟩) ht)
  case resetNRelease =>
    cases ht
    split
    · exact .inr rfl
    · exact .inl rfl
  case scanComplete =>
    cases ht
    split <;> exact .inl rfl
  case commitComplete | commitStoreFault =>
    cases hf : s.engine.inFlight with
    | none =>
      simp only [exec, execCommitComplete, execCommitStoreFault, hf] at ht
      cases ht
      exact .inl rfl
    | some f =>
      rw [exec_commitEnd_resolution (by simp) hf ht]
      exact (ite_eq_or_eq ..).symm
  case takeReadyEntry =>
    cases ht
    exact .inl s.proceed_resolution
  case timeBaseTick =>
    cases ht
    split
    · exact .inl rfl
    · exact .inl s.tick_resolution
  case tfwinExpiry | tpwaitExpiry | tptoExpiry | tstableExpiry =>
    cases ht
    exact .inl (State.expire_resolution ..)
  case stageReached =>
    cases ht
    exact .inl ((State.proceed_resolution _).trans (s.reachStages_resolution _))

/-! ### The statement -/

/-- Settles O48: the readiness check decides between the clearing and NOT_READY, every reset starts from a
clear resolution unit, and a part that is STARTING hands no command to a block that notes a condition. -/
theorem clearConditionClears : Obligations.ClearConditionClears := by
  refine ⟨fun form s hs => ?_, fun form s ht hr => ?_, fun _ _ _ _ => rfl, fun i s t hi ht => ?_,
    fun i s t hs hc ht => ?_⟩
  · exact congrArg Host.Outcome.next (hostCommand_ready hs)
  · exact congrArg Host.Outcome.next (hostCommand_not_ready ht hr)
  · exact exec_resolution_of_resetsOn hi ht
  · rcases exec_resolution_of_starting hs ht with h | h
    · rw [h, hc]
    · exact h

end Sys2Proof.Machine
end

section
/-! SUPPORT. The volume monitor: what a volume command and an expiry leave of one volume's entry, and the two
orders in which a command and an expiry can come (R116 to R123). -/

namespace Sys2Proof.Machine

/-! ### A volume move -/

section Moves

variable (s : State) (v : Fin 64) (e : Volume)

/-- A move that raises no notice replaces the entry and does nothing else (R122, R123). -/
theorem State.moveVolume_quiet : s.moveVolume v (.quiet e) = s.setVolume v e := rfl

/-- A move that raises a notice (R124). -/
theorem State.moveVolume_raising (x : Notice) :
    s.moveVolume v ⟨e, some x⟩ = (s.setVolume v e).raise x := rfl

end Moves

/-! ### A volume command on the volume it names -/

section Commands

variable {s : State} {i : Instr} {volume : Byte} {v : Fin 64} {inRange : Bool}
  {move : State → Fin 64 → Volume → Option VolumeMove}

/-- A volume command whose rule admits the volume's health makes its move and answers the new entry (R114). -/
theorem hostCommand_volume_moved {m : VolumeMove} (hs : s.ready) (hv : volume.toNat = v.val)
    (hr : inRange = true) (hu : (s.volumes.get v).health ≠ .unregistered)
    (hm : move s v (s.volumes.get v) = some m) :
    hostCommand i (fun s => s.volumeCommand volume inRange (move s)) s =
      (s.moveVolume v m).respond i ⟨.ok, m.entry.bytes⟩ := by
  subst hr
  rw [hostCommand_ready hs, State.volumeCommand_eq hv hu, hm]

/-- A volume command whose rule does not admit the volume's health is refused VOLUME_STATE (R114). -/
theorem hostCommand_volume_refused (hs : s.ready) (hv : volume.toNat = v.val)
    (hr : inRange = true) (hu : (s.volumes.get v).health ≠ .unregistered)
    (hm : move s v (s.volumes.get v) = none) :
    hostCommand i (fun s => s.volumeCommand volume inRange (move s)) s =
      s.respond i ⟨.volumeState, []⟩ := by
  subst hr
  rw [hostCommand_ready hs, State.volumeCommand_eq hv hu, hm]

end Commands

/-! ### The rule of each command -/

section Rules

variable {st : Settings} {v : Fin 64} {e : Volume}

/-- A report that stays below the threshold (R115). -/
theorem reportFaultMove_below (h : e.health = .online) (hc : e.faultCount + 1 < st.faultThreshold) :
    reportFaultMove st v e = some (.quiet ⟨.online, e.faultCount + 1, .running .tFwin st.tFwin⟩) := by
  have below : ¬ st.faultThreshold ≤ e.faultCount + 1 := by omega
  cases e; cases h
  exact if_neg below

theorem probeVolumeMove_failed (h : e.health = .failed) :
    probeVolumeMove st e = some (.quiet ⟨.probing, e.faultCount, .running .tPto st.tPto⟩) := by
  cases e; cases h; rfl

theorem probeVolumeMove_eq_none (h : e.health ≠ .failed) : probeVolumeMove st e = none := by
  unfold probeVolumeMove
  split
  · contradiction
  all_goals rfl

theorem probeResultMove_good (h : e.health = .probing) : probeResultMove st true v e =
    some (.quiet ⟨.settling, e.faultCount, .running .tStable st.tStable⟩) := by
  cases e; cases h; rfl

theorem probeResultMove_bad (h : e.health = .probing) : probeResultMove st false v e =
    some ⟨⟨.failed, e.faultCount, .running .tPwait st.tPwait⟩, some (.volumeFailed v)⟩ := by
  cases e; cases h; rfl

theorem probeResultMove_eq_none {good : Bool} (h : e.health ≠ .probing) :
    probeResultMove st good v e = none := by
  unfold probeResultMove
  split
  · contradiction
  all_goals rfl

/-- The result byte of a PROBE RESULT is GOOD or BAD (R119). -/
theorem probeResult_inRange {result : Byte} (h : result = 1#8 ∨ result = 2#8) :
    decide (result.toNat = 1 ∨ result.toNat = 2) = true := by
  rcases h with rfl | rfl <;> rfl

end Rules

/-! ### The rule of each expiry -/

section ExpiryRules

variable {s : State} {st : Settings} {policy : VolumePolicy} {v : Fin 64} {i : Interval} {e : Volume}

/-- The expiry of an interval that has run to its end (R110). -/
theorem State.expire_due (h : (s.volumes.get v).timer = .running i 0) : s.expire v i =
    s.moveVolume v ((s.volumes.get v).expire i s.settings (s.policyOf v) v) :=
  if_pos h

/-- The expiry of an interval that a command has stopped or restarted does not happen (R110). -/
theorem State.expire_not_due (h : (s.volumes.get v).timer ≠ .running i 0) : s.expire v i = s :=
  if_neg h

theorem Volume.expire_tFwin_online (h : e.health = .online) :
    e.expire .tFwin st policy v = .quiet ⟨.online, 0, .idle⟩ := by
  cases e; cases h; rfl

/-- The end of tPWAIT with auto probe yes (R117). -/
theorem Volume.expire_tPwait_autoProbe (h : e.health = .failed) (hp : policy.autoProbe = true) :
    e.expire .tPwait st policy v =
      ⟨⟨.probing, e.faultCount, .running .tPto st.tPto⟩, some (.volumeProbeRequest v)⟩ := by
  cases e; cases h
  exact if_pos hp

/-- The end of tPWAIT with auto probe no (R117). -/
theorem Volume.expire_tPwait_wait (h : e.health = .failed) (hp : policy.autoProbe = false) :
    e.expire .tPwait st policy v = .quiet ⟨.failed, e.faultCount, .idle⟩ := by
  cases e; cases h
  exact if_neg (by simp [hp])

theorem Volume.expire_tPto_probing (h : e.health = .probing) : e.expire .tPto st policy v =
    ⟨⟨.failed, e.faultCount, .running .tPwait st.tPwait⟩, some (.volumeFailed v)⟩ := by
  cases e; cases h; rfl

end ExpiryRules

/-! ### The commands and expiries on a volume's entry -/

section Effects

variable {s : State} {form volume result : Byte} {v : Fin 64}

/-- REPORT FAULT below the threshold counts the report and restarts tFWIN (R115). -/
theorem exec_reportFault_below (hs : s.ready) (hv : volume.toNat = v.val)
    (ho : (s.volumes.get v).health = .online)
    (hc : (s.volumes.get v).faultCount + 1 < s.settings.faultThreshold) :
    ∃ u, exec (.reportFault form volume) s = .next u ∧ u.volumes.get v =
      ⟨.online, (s.volumes.get v).faultCount + 1, .running .tFwin s.settings.tFwin⟩ :=
  ⟨_, congrArg Host.Outcome.next (hostCommand_volume_moved (move := fun s => reportFaultMove s.settings) hs hv
    rfl (by simp [ho]) (reportFaultMove_below ho hc)), Table.get_set_self ..⟩

/-- PROBE VOLUME on a FAILED volume (R118). -/
theorem exec_probeVolume_failed (hs : s.ready) (hv : volume.toNat = v.val)
    (hf : (s.volumes.get v).health = .failed) : exec (.probeVolume form volume) s =
      .next ((s.setVolume v ⟨.probing, (s.volumes.get v).faultCount, .running .tPto s.settings.tPto⟩).respond
        (.probeVolume form volume)
        ⟨.ok, Volume.bytes ⟨.probing, (s.volumes.get v).faultCount, .running .tPto s.settings.tPto⟩⟩) :=
  congrArg Host.Outcome.next (hostCommand_volume_moved (move := fun s _ e => probeVolumeMove s.settings e)
    hs hv rfl (by simp [hf]) (probeVolumeMove_failed hf))

/-- PROBE VOLUME on a registered volume that is not FAILED (R118). -/
theorem exec_probeVolume_refused (hs : s.ready) (hv : volume.toNat = v.val)
    (hu : (s.volumes.get v).health ≠ .unregistered) (hf : (s.volumes.get v).health ≠ .failed) :
    exec (.probeVolume form volume) s =
      .next (s.respond (.probeVolume form volume) ⟨.volumeState, []⟩) :=
  congrArg Host.Outcome.next (hostCommand_volume_refused (move := fun s _ e => probeVolumeMove s.settings e)
    hs hv rfl hu (probeVolumeMove_eq_none hf))

/-- PROBE RESULT GOOD on a PROBING volume (R119). -/
theorem exec_probeResult_good (hs : s.ready) (hv : volume.toNat = v.val)
    (hp : (s.volumes.get v).health = .probing) : exec (.probeResult form volume 1#8) s =
      .next ((s.setVolume v
          ⟨.settling, (s.volumes.get v).faultCount, .running .tStable s.settings.tStable⟩).respond
        (.probeResult form volume 1#8) ⟨.ok, Volume.bytes
          ⟨.settling, (s.volumes.get v).faultCount, .running .tStable s.settings.tStable⟩⟩) :=
  congrArg Host.Outcome.next (hostCommand_volume_moved (move := fun s => probeResultMove s.settings true)
    hs hv rfl (by simp [hp]) (probeResultMove_good hp))

/-- PROBE RESULT BAD on a PROBING volume (R119). -/
theorem exec_probeResult_bad (hs : s.ready) (hv : volume.toNat = v.val)
    (hp : (s.volumes.get v).health = .probing) : exec (.probeResult form volume 2#8) s =
      .next (((s.setVolume v
          ⟨.failed, (s.volumes.get v).faultCount, .running .tPwait s.settings.tPwait⟩).raise
        (.volumeFailed v)).respond (.probeResult form volume 2#8) ⟨.ok, Volume.bytes
          ⟨.failed, (s.volumes.get v).faultCount, .running .tPwait s.settings.tPwait⟩⟩) :=
  congrArg Host.Outcome.next (hostCommand_volume_moved (move := fun s => probeResultMove s.settings false)
    hs hv rfl (by simp [hp]) (probeResultMove_bad hp))

/-- PROBE RESULT on a registered volume that is not PROBING, GOOD or BAD alike (R119, R120, R123). -/
theorem exec_probeResult_refused (hs : s.ready) (hv : volume.toNat = v.val)
    (hr : result = 1#8 ∨ result = 2#8) (hu : (s.volumes.get v).health ≠ .unregistered)
    (hp : (s.volumes.get v).health ≠ .probing) : exec (.probeResult form volume result) s =
      .next (s.respond (.probeResult form volume result) ⟨.volumeState, []⟩) :=
  congrArg Host.Outcome.next (hostCommand_volume_refused
    (move := fun s => probeResultMove s.settings (decide (result.toNat = 1))) hs hv
    (probeResult_inRange hr) hu (probeResultMove_eq_none hp))

/-- FAIL VOLUME on a registered volume (R122). -/
theorem exec_failVolume (hs : s.ready) (hv : volume.toNat = v.val)
    (hu : (s.volumes.get v).health ≠ .unregistered) : exec (.failVolume form volume) s =
      .next ((s.setVolume v
          ⟨.failed, (s.volumes.get v).faultCount, .running .tPwait s.settings.tPwait⟩).respond
        (.failVolume form volume) ⟨.ok, Volume.bytes
          ⟨.failed, (s.volumes.get v).faultCount, .running .tPwait s.settings.tPwait⟩⟩) :=
  congrArg Host.Outcome.next (hostCommand_volume_moved
    (move := fun s _ e => some (.quiet (e.fail s.settings))) hs hv rfl hu rfl)

/-- RESTORE VOLUME on a registered volume (R123). -/
theorem exec_restoreVolume (hs : s.ready) (hv : volume.toNat = v.val)
    (hu : (s.volumes.get v).health ≠ .unregistered) : exec (.restoreVolume form volume) s =
      .next ((s.setVolume v ⟨.online, 0, .idle⟩).respond (.restoreVolume form volume)
        ⟨.ok, Volume.bytes ⟨.online, 0, .idle⟩⟩) :=
  congrArg Host.Outcome.next (hostCommand_volume_moved
    (move := fun _ _ _ => some (.quiet Volume.clean)) hs hv rfl hu rfl)

/-- The end of tFWIN forgives what an ONLINE volume has counted (R116). -/
theorem expire_tFwin_online (ho : (s.volumes.get v).health = .online)
    (hd : (s.volumes.get v).timer = .running .tFwin 0) :
    s.expire v .tFwin = s.setVolume v ⟨.online, 0, .idle⟩ := by
  rw [State.expire_due hd, Volume.expire_tFwin_online ho, State.moveVolume_quiet]

/-- The end of tPWAIT with auto probe yes asks for a probe (R117). -/
theorem expire_tPwait_autoProbe (hf : (s.volumes.get v).health = .failed)
    (hd : (s.volumes.get v).timer = .running .tPwait 0) (hp : (s.policyOf v).autoProbe = true) :
    s.expire v .tPwait = (s.setVolume v
      ⟨.probing, (s.volumes.get v).faultCount, .running .tPto s.settings.tPto⟩).raise
        (.volumeProbeRequest v) := by
  rw [State.expire_due hd, Volume.expire_tPwait_autoProbe hf hp, State.moveVolume_raising]

/-- The end of tPWAIT with auto probe no leaves the volume waiting for PROBE VOLUME (R117). -/
theorem expire_tPwait_wait (hf : (s.volumes.get v).health = .failed)
    (hd : (s.volumes.get v).timer = .running .tPwait 0) (hp : (s.policyOf v).autoProbe = false) :
    s.expire v .tPwait = s.setVolume v ⟨.failed, (s.volumes.get v).faultCount, .idle⟩ := by
  rw [State.expire_due hd, Volume.expire_tPwait_wait hf hp, State.moveVolume_quiet]

/-- The end of tPTO fails a probe that has brought no result (R119). -/
theorem expire_tPto_probing (hp : (s.volumes.get v).health = .probing)
    (hd : (s.volumes.get v).timer = .running .tPto 0) :
    s.expire v .tPto = (s.setVolume v
      ⟨.failed, (s.volumes.get v).faultCount, .running .tPwait s.settings.tPwait⟩).raise
        (.volumeFailed v) := by
  rw [State.expire_due hd, Volume.expire_tPto_probing hp, State.moveVolume_raising]

end Effects

/-! ### The statements -/

/-- Settles O40: the expiry leaves count 0 for the report after it, and a report leaves tFWIN running in full,
so that the expiry finds nothing due. -/
theorem faultWindowForgives : Obligations.FaultWindowForgives := by
  intro form volume v s count hv he hw
  have forgiven : s.expire v .tFwin = s.setVolume v ⟨.online, 0, .idle⟩ :=
    expire_tFwin_online (by simp [he]) (by simp [he])
  refine ⟨congrArg Host.Outcome.next forgiven, fun hs hc t ht => ?_, fun hs hc => ?_⟩
  · obtain rfl : s.setVolume v ⟨.online, 0, .idle⟩ = t := by cases ht; exact forgiven.symm
    simpa using exec_reportFault_below (s := s.setVolume v ⟨.online, 0, .idle⟩) (form := form) hs hv
      (by simp) (by simpa using hc)
  · obtain ⟨u, hu, entry⟩ :=
      exec_reportFault_below (form := form) hs hv (by simp [he]) (by simpa [he] using hc)
    have restarted : (u.volumes.get v).timer ≠ .running .tFwin 0 := by
      simpa [entry] using hw.ne'
    exact ⟨u, hu, by simpa [he] using entry, congrArg Host.Outcome.next (State.expire_not_due restarted)⟩

/-- Settles O41: whichever of the command and the expiry comes first leaves the volume PROBING with tPTO
running, which admits neither a second PROBE VOLUME nor an expiry of tPWAIT. -/
theorem probesBegin : Obligations.ProbesBegin := by
  rintro form volume v s _ hv rfl
  refine ⟨fun hs hf => exec_probeVolume_failed hs hv hf, fun hs hh => ?_, fun hf hd hp => ?_,
    fun hf hd hp => congrArg Host.Outcome.next (expire_tPwait_wait hf hd hp), fun hs hf t ht => ?_⟩
  · rcases hh with h | h | h <;> exact exec_probeVolume_refused hs hv (by simp [h]) (by simp [h])
  · have begun := expire_tPwait_autoProbe hf hd hp
    refine ⟨congrArg Host.Outcome.next begun, fun hs t ht => ?_⟩
    cases ht
    rw [begun]
    exact exec_probeVolume_refused hs hv (by simp) (by simp)
  · rw [exec_probeVolume_failed hs hv hf] at ht
    cases ht
    exact congrArg Host.Outcome.next (State.expire_not_due (by simp))

/-- Settles O42: the expiry leaves the volume FAILED, where a result is refused, and a result leaves tSTABLE
or tPWAIT running in place of tPTO. -/
theorem probesEnd : Obligations.ProbesEnd := by
  rintro form volume result v s _ hv hr rfl
  refine ⟨?_, ?_, fun hs hh => ?_, fun hp hd => ?_, fun hs hp t ht => ?_⟩
  · rintro hs hp rfl
    exact exec_probeResult_good hs hv hp
  · rintro hs hp rfl
    exact exec_probeResult_bad hs hv hp
  · rcases hh with h | h | h <;> exact exec_probeResult_refused hs hv hr (by simp [h]) (by simp [h])
  · have ended := expire_tPto_probing hp hd
    refine ⟨congrArg Host.Outcome.next ended, fun hs t ht => ?_⟩
    cases ht
    rw [ended]
    exact exec_probeResult_refused hs hv hr (by simp) (by simp)
  · have stopped : (t.volumes.get v).timer ≠ .running .tPto 0 := by
      rcases hr with rfl | rfl
      · rw [exec_probeResult_good hs hv hp] at ht
        cases ht
        simp
      · rw [exec_probeResult_bad hs hv hp] at ht
        cases ht
        simp
    exact congrArg Host.Outcome.next (State.expire_not_due stopped)

/-- Settles O44: FAIL VOLUME and RESTORE VOLUME admit every registered health, and leave the volume FAILED or
ONLINE, where no probe is in progress. -/
theorem volumesFailAndReturn : Obligations.VolumesFailAndReturn := by
  rintro form volume v s _ hs hv rfl hu
  refine ⟨exec_failVolume hs hv hu, exec_restoreVolume hs hv hu, fun t ht q hq => ?_, ?_⟩
  · rw [exec_restoreVolume hs hv hu] at ht
    cases ht
    simp [Placement.eligible, hq]
  · rintro i t u result (rfl | rfl) ht rfl hr
    · rw [exec_failVolume hs hv hu] at ht
      cases ht
      exact exec_probeResult_refused hs hv hr (by simp) (by simp)
    · rw [exec_restoreVolume hs hv hu] at ht
      cases ht
      exact exec_probeResult_refused hs hv hr (by simp) (by simp)

end Sys2Proof.Machine
end

section
/-! SUPPORT. One induction for every invariant: what every command keeps, every step keeps. -/

namespace Sys2Proof.Machine

/-- Settles O1: the step is defined by the front of the queue. -/
theorem stepRunsFrontCommand : Obligations.StepRunsFrontCommand := by
  intro c rest s h
  rw [step, h]

/-- A property that reading the queue of commands and every command keep, every step keeps. -/
theorem step_keeps {P : State → Prop} (pending : ∀ s x, P s → P (s.withPending x))
    (command : ∀ i s t, P s → exec i s = .next t → P t) {s t : State} (hs : P s)
    (ht : step s = .next t) : P t := by
  unfold step at ht
  split at ht
  · cases ht
    exact hs
  · exact command _ _ _ (pending _ _ hs) ht

/-- A property of the core that every core move keeps, every step keeps. -/
theorem step_keeps_of_core {P : State → Prop} (same : ∀ {s t : State}, s.sameCore t → P s → P t)
    (move : ∀ {s u : State}, P s → s.coreMove u → P u) {s t : State} (hs : P s)
    (ht : step s = .next t) : P t := by
  refine step_keeps (fun s x h => same (s := s) ⟨rfl, rfl, rfl, rfl, rfl, rfl⟩ h) (fun i s t h he => ?_) hs ht
  obtain ⟨u, hu, hm⟩ := exec_core he
  exact same hu (move h hm)

end Sys2Proof.Machine
end

section
/-! SUPPORT. The catalogue, the free counts and the changes in hand under every core move (R10, R13, R14,
R34, R36, R139, R140). -/

namespace Sys2Proof.Machine

/-! ### What the store invariant reads -/

/-- Two states that agree on what the store invariant reads: the catalogue and its indexes but for the use
counts and pending fields, the free counts, the change in flight, and what each entry defers. -/
def State.sameStore (s t : State) : Prop :=
  t.starting = s.starting ∧ t.store.records = s.store.records ∧
    t.index.entries.map (·.accession) = s.index.entries.map (·.accession) ∧
    t.index.carriers = s.index.carriers ∧ t.index.vacantSlots = s.index.vacantSlots ∧
    t.index.freeSegments = s.index.freeSegments ∧ t.engine.inFlight = s.engine.inFlight ∧
    t.queue.map (fun e => (e.accession, e.payload)) = s.queue.map (fun e => (e.accession, e.payload))

theorem State.sameStore_refl (s : State) : s.sameStore s := ⟨rfl, rfl, rfl, rfl, rfl, rfl, rfl, rfl⟩

theorem State.sameStore.trans {s t u : State} (h : s.sameStore t) (h' : t.sameStore u) :
    s.sameStore u := by
  obtain ⟨h1, h2, h3, h4, h5, h6, h7, h8⟩ := h
  obtain ⟨k1, k2, k3, k4, k5, k6, k7, k8⟩ := h'
  exact ⟨k1.trans h1, k2.trans h2, k3.trans h3, k4.trans h4, k5.trans h5, k6.trans h6, k7.trans h7,
    k8.trans h8⟩

theorem State.sameCore.sameStore {s t : State} (h : s.sameCore t) : s.sameStore t := by
  obtain ⟨h1, h2, h3, -, h5, h6⟩ := h
  exact ⟨h1, h2, by rw [h3], by rw [h3], by rw [h3], by rw [h3], h5, by rw [h6]⟩

/-- What holds of every deferred change holds where the same changes are deferred. -/
theorem forall_deferred_congr {Q : Nat → Change → Prop} {q q' : List Entry}
    (h : q'.map (fun e => (e.accession, e.payload)) = q.map (fun e => (e.accession, e.payload)))
    (hq : ∀ e ∈ q, Q e.accession e.payload) : ∀ e ∈ q', Q e.accession e.payload := by
  intro e he
  have : (e.accession, e.payload) ∈ q.map (fun e => (e.accession, e.payload)) :=
    h ▸ List.mem_map_of_mem he
  obtain ⟨x, hx, hxe⟩ := List.mem_map.1 this
  obtain ⟨ha, hp⟩ := Prod.mk.inj hxe
  exact ha ▸ hp ▸ hq x hx

/-- The store invariant reads what `sameStore` says. -/
theorem State.storeSound_congr {s t : State} (h : s.sameStore t) (hs : s.storeSound) :
    t.storeSound := by
  obtain ⟨h1, h2, h3, h4, h5, h6, h7, h8⟩ := h
  obtain ⟨⟨order, kept⟩, ⟨idle, flight, deferred⟩, conserved⟩ := hs
  have nil : s.queue = [] ↔ t.queue = [] := by
    rw [← List.map_eq_nil_iff (f := fun e : Entry => (e.accession, e.payload)), ← h8, List.map_eq_nil_iff]
  refine ⟨⟨?_, ?_⟩, ⟨?_, ?_, ?_⟩, ?_⟩
  · rwa [h2]
  · rwa [h1, h2, h3, h4]
  · rwa [h1, h7, ← nil]
  · intro f hf
    obtain ⟨slots, segments, amend, clear, purge⟩ := flight f (h7 ▸ hf)
    exact ⟨h2 ▸ slots, segments, fun hk => by simpa only [State.record?, h2] using amend hk,
      fun hk => nil.1 (clear hk), fun hk => forall_deferred_congr h8 (Q := fun a _ => a ≠ _) (purge hk)⟩
  · refine forall_deferred_congr h8 (Q := fun a c => a = c.accession ∧
      c.deferrable t.store.records = true ∧ (t.record? a).isSome = true) ?_
    simpa only [State.record?, h2] using deferred
  · simpa only [State.storeConserved, h2, h5, h6, h7] using conserved

/-! ### Operations that leave it alone -/

theorem State.sameStore_settleCounts (s : State) : s.sameStore s.settleCounts :=
  ⟨rfl, rfl, by simp, rfl, rfl, rfl, rfl, by simp⟩

/-- A rewriting of entries that leaves what each defers. -/
theorem map_deferred_modifyEntry {a : Nat} {f : Entry → Entry} (ha : ∀ e, (f e).accession = e.accession)
    (hp : ∀ e, (f e).payload = e.payload) (q : List Entry) :
    (modifyEntry a f q).map (fun e => (e.accession, e.payload)) =
      q.map (fun e => (e.accession, e.payload)) := by
  simp only [modifyEntry, List.map_map]
  apply List.map_congr_left
  intro e _
  by_cases h : e.accession = a <;> simp [h, ha, hp]

theorem State.sameStore_takeStage (s : State) (a k : Nat) : s.sameStore (s.takeStage a k) := by
  obtain ⟨m, f, h, -⟩ := s.takeStage_eq a k
  rw [h]
  exact ⟨rfl, rfl, rfl, rfl, rfl, rfl, rfl,
    map_deferred_modifyEntry (f := fun e => { e with stage := k }) (fun _ => rfl) (fun _ => rfl) _⟩

theorem State.sameStore_reachStages (s : State) (a : Nat) : s.sameStore (s.reachStages a) :=
  State.reachStages_keeps (P := s.sameStore) (fun t a k h _ _ => h.trans (t.sameStore_takeStage a k))
    (fun t h => h.trans t.sameStore_settleCounts) a s.sameStore_refl

theorem State.sameStore_reachAllStages (s : State) : s.sameStore s.reachAllStages :=
  State.reachAllStages_keeps (P := s.sameStore)
    (fun t a k h _ _ => h.trans (t.sameStore_takeStage a k))
    (fun t h => h.trans t.sameStore_settleCounts) s.sameStore_refl

theorem State.sameStore_settle (s : State) : s.sameStore s.settle :=
  State.settle_keeps (P := s.sameStore) (fun t a k h _ _ => h.trans (t.sameStore_takeStage a k))
    (fun t h => h.trans t.sameStore_settleCounts) s.sameStore_refl

@[simp] theorem Entry.ticked_accession (e : Entry) : e.ticked.accession = e.accession := by
  unfold Entry.ticked; split <;> rfl
@[simp] theorem Entry.ticked_payload (e : Entry) : e.ticked.payload = e.payload := by
  unfold Entry.ticked; split <;> rfl
@[simp] theorem Entry.ticked_state (e : Entry) : e.ticked.state = e.state := by
  unfold Entry.ticked; split <;> rfl
@[simp] theorem Entry.ticked_stage (e : Entry) : e.ticked.stage = e.stage := by
  unfold Entry.ticked; split <;> rfl

theorem State.sameStore_count (s : State) : s.sameStore s.count := by
  refine ⟨by simp, by simp, by simp, by simp, by simp, by simp, by simp, ?_⟩
  rw [State.count_queue]
  split
  · rfl
  · simp

/-! ### Entries leaving, commits starting -/

/-- An entry leaving leaves the rest sound. -/
theorem State.storeSound_removeEntry {s : State} (a : Nat) (hs : s.storeSound) :
    (s.removeEntry a).storeSound := by
  obtain ⟨⟨order, kept⟩, ⟨idle, flight, deferred⟩, conserved⟩ := hs
  refine ⟨⟨order, fun h => ?_⟩, ⟨fun h => ?_, fun f hf => ?_, fun e he => ?_⟩, conserved⟩
  · exact ⟨by simpa using (kept h).1, (kept h).2⟩
  · exact ⟨(idle h).1, by simp [(idle h).2]⟩
  · obtain ⟨slots, segments, amend, clear, purge⟩ := flight f hf
    exact ⟨slots, segments, amend, fun hk => by simp [clear hk],
      fun hk e he => purge hk e (List.mem_filter.1 he).1⟩
  · exact deferred e (List.mem_filter.1 he).1

theorem State.sameStore_noteCommit (s : State) (c : Change) (o : CommitOutcome) (l : List ItemRecord) :
    s.sameStore (s.noteCommit c o l) := by
  refine ⟨?_, ?_, ?_, ?_, ?_, ?_, ?_, ?_⟩ <;> simp

theorem State.sameStore_raise (s : State) (x : Notice) : s.sameStore (s.raise x) :=
  ⟨rfl, rfl, rfl, rfl, rfl, rfl, rfl, rfl⟩

theorem State.storeSound_lateFailure {s : State} (e : Entry) (o : CommitOutcome) (hs : s.storeSound) :
    (s.lateFailure e o).storeSound :=
  State.storeSound_congr (State.sameStore_raise _ _) (State.storeSound_congr
    (State.sameStore_noteCommit _ _ _ _) (State.storeSound_removeEntry _ hs))

/-- A commit that starts on an IDLE engine, with its space free and the change as its acceptance left it,
leaves the store sound (R36, R142). -/
theorem State.storeSound_startCommit {s : State} {c : Change} (source : Source) (hs : s.storeSound)
    (started : s.starting = false) (idle : s.engine.inFlight = none)
    (slots : c.slotsNeeded s.store.records ≤ s.index.vacantSlots)
    (segments : c.segmentsNeeded ≤ s.index.freeSegments)
    (amend : c.kind = .amendSegments → (s.record? c.accession).isSome = true)
    (clear : c.kind = .clearHoldings → s.queue = [])
    (purge : c.kind = .purgeItem → ∀ e ∈ s.queue, e.accession ≠ c.accession) :
    (s.startCommit c source).storeSound := by
  obtain ⟨kept, ⟨-, -, deferred⟩, conserved⟩ := hs
  refine ⟨kept, ⟨fun h => ?_, fun f hf => ?_, deferred⟩, ?_⟩
  · simp [started] at h
  · obtain rfl : (⟨c, source, c.slotsNeeded s.store.records, c.segmentsNeeded⟩ : InFlight) = f := by
      simpa [State.startCommit] using hf
    exact ⟨rfl, rfl, amend, clear, purge⟩
  · simp only [State.storeConserved, idle, State.startCommit, State.withIndex_index,
      State.withIndex_store, State.withEngine_store, State.withIndex_engine, State.withEngine_engine,
      Option.map_none, Option.getD_none, Option.map_some, Option.getD_some] at conserved ⊢
    omega

/-- The engine takes an entry only of a part that has started. -/
theorem State.starting_of_oldestReady {s : State} {e : Entry} (hs : s.storeSound)
    (h : s.oldestReady = some e) : s.starting = false := by
  cases h' : s.starting
  · rfl
  · simp [State.oldestReady, (hs.2.1.1 h').2] at h

/-- A READY entry taken whose re-checks pass (R150). -/
theorem State.storeSound_take {s : State} {e : Entry} (hs : s.storeSound) (hm : s.mayTake = true)
    (he : s.oldestReady = some e) (hr : s.recheck e = none) :
    ((s.withQueue (modifyEntry e.accession (fun x => { x with state := .committing })
      s.queue)).startCommit e.payload .queue).storeSound := by
  have started := State.starting_of_oldestReady hs he
  obtain ⟨idle, -, -⟩ := State.mayTake_eq_true.1 hm
  obtain ⟨named, deferrable, stands⟩ := hs.2.1.2.2 e (List.mem_of_find?_eq_some he)
  obtain ⟨slots, noClear, noPurge⟩ := Change.deferrable_cases deferrable
  refine State.storeSound_startCommit .queue (State.storeSound_congr ?_ hs) started idle ?_ ?_ ?_ ?_ ?_
  · exact ⟨rfl, rfl, rfl, rfl, rfl, rfl, rfl, map_deferred_modifyEntry
      (f := fun x => { x with state := .committing }) (fun _ => rfl) (fun _ => rfl) _⟩
  · exact slots ▸ Nat.zero_le _
  · exact State.recheck_space hr
  · exact fun _ => named ▸ stands
  · exact fun h => absurd h noClear
  · exact fun h => absurd h noPurge

theorem State.storeSound_proceed {s : State} (hs : s.storeSound) : s.proceed.storeSound :=
  State.proceed_keeps (P := State.storeSound) (fun _ e o h _ _ _ => State.storeSound_lateFailure e o h)
    (fun _ _ h hm he hr => State.storeSound_take h hm he hr) hs

/-! ### An accepted change -/

/-- A change that passes the record state step, and is neither a create nor one that names no item, finds its
record standing (R7, R136). -/
theorem State.record_of_recordRefusal {s : State} {c : Change} {strict : Bool}
    (h : s.recordRefusal c strict = none) (hn : c.namesItem = true) (hk : c.kind ≠ .writeItem) :
    (s.record? c.accession).isSome = true := by
  cases hr : s.record? c.accession with
  | some r => rfl
  | none => cases c <;> simp_all [State.recordRefusal, recordStateRefusal, Change.kind, Change.namesItem]

/-- A deferrable change that passes the record state step finds its record standing (R133, R136). -/
theorem State.record_of_deferrable {s : State} {c : Change} {strict : Bool}
    (h : s.recordRefusal c strict = none) (hd : c.deferrable s.store.records = true) :
    (s.record? c.accession).isSome = true := by
  by_cases hk : c.kind = .writeItem
  · cases c <;> simp [Change.kind] at hk
    exact hd
  · exact State.record_of_recordRefusal h (by cases c <;> simp_all [Change.deferrable, Change.namesItem]) hk

/-- A change that names an item and passes the pending entry step finds no entry for it (R139). -/
theorem State.entryRefusal_eq_false {s : State} {c : Change} (hn : c.namesItem = true)
    (h : s.entryRefusal c = false) : ∀ e ∈ s.queue, e.accession ≠ c.accession := by
  have : s.entry? c.accession = none := by
    cases c <;> simp_all [State.entryRefusal, Change.namesItem]
  simpa [State.entry?] using this

/-- An accepted change that names no CLEAR HOLDINGS in flight and nothing else in flight on its item
(R140). -/
theorem State.blockedByFlight_eq_false {s : State} {c : Change} (h : s.blockedByFlight c = false)
    {f : InFlight} (hf : s.engine.inFlight = some f) : f.change.kind ≠ .clearHoldings ∧
      (c.namesItem = true → f.change.namesItem = true → f.change.accession ≠ c.accession) := by
  simp only [State.blockedByFlight, hf, Bool.or_eq_false_iff, decide_eq_false_iff_not,
    Bool.and_eq_false_iff, beq_eq_false_iff_ne] at h
  refine ⟨h.1, fun hc hc' => ?_⟩
  simpa [hc, hc'] using h.2

theorem Change.namesItem_of_deferrable {c : Change} {l : List ItemRecord} (h : c.deferrable l = true) :
    c.namesItem = true := by
  cases c <;> simp_all [Change.deferrable, Change.namesItem]

/-- The queue with a change joined last, before its stages are compared (R158). -/
def State.joined (s : State) (c : Change) : State :=
  (s.withQueue (s.queue ++ [⟨c.accession, c, .waiting, 0, 0⟩])).withIndex
    (s.index.setPending c.accession true)

theorem State.join_eq (s : State) (c : Change) : s.join c = (s.joined c).reachStages c.accession := rfl

theorem State.storeSound_joined {s : State} {c : Change} {strict : Bool} (hs : s.storeSound)
    (started : s.starting = false) (checks : s.passesChecks c strict)
    (free : s.blockedByFlight c = false) (hd : c.deferrable s.store.records = true) :
    (s.joined c).storeSound := by
  obtain ⟨⟨order, kept⟩, ⟨-, flight, deferred⟩, conserved⟩ := hs
  obtain ⟨-, -, record, -, -⟩ := checks
  refine ⟨⟨order, fun h => ?_⟩, ⟨fun h => ?_, fun f hf => ?_, fun e he => ?_⟩, conserved⟩
  · exact ⟨by simpa [State.joined] using (kept h).1, (kept h).2⟩
  · simp [State.joined, started] at h
  · obtain ⟨noClear, apart⟩ := State.blockedByFlight_eq_false free hf
    obtain ⟨slots, segments, amend, -, purge⟩ := flight f hf
    refine ⟨slots, segments, amend, fun hk => absurd hk noClear, fun hk e he => ?_⟩
    rcases List.mem_append.1 he with he | he
    · exact purge hk e he
    · obtain rfl := List.mem_singleton.1 he
      exact (apart (Change.namesItem_of_deferrable hd)
        (by cases h : f.change <;> simp_all [Change.kind, Change.namesItem])).symm
  · rcases List.mem_append.1 he with he | he
    · exact deferred e he
    · obtain rfl := List.mem_singleton.1 he
      exact ⟨rfl, hd, State.record_of_deferrable (s := s) record hd⟩

theorem State.storeSound_acceptChange {s : State} (c : Change) (strict : Bool) (hs : s.storeSound)
    (started : s.starting = false) : (s.acceptChange c strict).1.storeSound := by
  rcases s.acceptChange_cases c strict with
    h | ⟨checks, free, hd, -, -, h⟩ | ⟨checks, idle, -, slots, segments, h⟩ <;> rw [h]
  · exact hs
  · exact State.storeSound_proceed (State.storeSound_congr (State.sameStore_reachStages _ _)
      (State.storeSound_joined hs started checks free hd))
  · obtain ⟨-, -, record, -, entry⟩ := checks
    refine State.storeSound_startCommit .direct hs started idle slots segments (fun hk => ?_)
      (fun hk => ?_) (fun hk => ?_)
    · exact State.record_of_recordRefusal record (by cases c <;> simp_all [Change.kind, Change.namesItem])
        (by simp [hk])
    · cases c <;> simp_all [Change.kind, State.entryRefusal]
    · exact State.entryRefusal_eq_false (by cases c <;> simp_all [Change.kind, Change.namesItem]) entry

/-! ### The end of a commit, and the resets -/

/-- A soft reset, or the engine proceeding, after the end of a commit. -/
theorem State.afterCompletion_keeps {P : State → Prop} {s : State} (reset : P s → P s.softReset)
    (proceed : P s → P s.proceed) (h : P s) : P s.afterCompletion := by
  rcases s.afterCompletion_cases with ⟨-, e⟩ | ⟨-, e⟩ <;> rw [e]
  · exact reset h
  · exact proceed h

/-- A start-up over a catalogue in order whose slots and segments fit the store. -/
theorem State.storeSound_startUp {store : Store} (pending : List Instr) (selectLow : Bool) (k : Nat)
    (order : store.records.Pairwise fun a b => a.accession < b.accession)
    (slots : store.records.length ≤ Config.slotCount)
    (segments : segmentsOwned store.records ≤ Config.poolSize) :
    (State.startUp pending selectLow store k).storeSound := by
  refine ⟨⟨order, fun h => by simp [State.startUp] at h⟩, ⟨fun _ => ⟨rfl, rfl⟩,
    fun f hf => by simp [State.startUp, Engine.afterReset] at hf,
    fun e he => by simp [State.startUp] at he⟩, ?_⟩
  simp only [State.storeConserved, State.startUp, Index.beforeScan, Engine.afterReset, Option.map_none,
    Option.getD_none, segmentsOwned] at *
  omega

/-- A sound catalogue fits the store. -/
theorem State.storeSound.fits {s : State} (hs : s.storeSound) :
    s.store.records.length ≤ Config.slotCount ∧ segmentsOwned s.store.records ≤ Config.poolSize := by
  obtain ⟨-, -, slots, segments⟩ := hs
  omega

/-- The catalogue with the change in flight in force fits the store too (R36). -/
theorem State.storeSound.fits_applied {s : State} {f : InFlight} (hs : s.storeSound)
    (hf : s.engine.inFlight = some f) :
    (f.change.applyRecords s.store.records).length ≤ Config.slotCount ∧
      segmentsOwned (f.change.applyRecords s.store.records) ≤ Config.poolSize := by
  obtain ⟨⟨order, -⟩, ⟨-, flight, -⟩, conserved⟩ := hs
  obtain ⟨slots, segments, amend, -, -⟩ := flight f hf
  have := f.change.slots_conserved s.store.records
  have := f.change.segments_conserved order amend
  simp only [State.storeConserved, hf, Option.map_some, Option.getD_some] at conserved
  omega

theorem State.storeSound_softReset {s : State} (hs : s.storeSound) : s.softReset.storeSound :=
  State.storeSound_startUp _ _ _ hs.1.1 hs.fits.1 hs.fits.2

/-- The new version in force, before the engine is idle again, with its provisional space given back
(R36, R144). -/
theorem State.storeSound_installed {s : State} {f : InFlight} (hs : s.storeSound)
    (hf : s.engine.inFlight = some f) :
    ((s.install f.change).withEngine { s.engine with inFlight := none }).storeSound := by
  obtain ⟨⟨order, kept⟩, ⟨idle, flight, deferred⟩, conserved⟩ := hs
  obtain ⟨slots, segments, amend, clear, purge⟩ := flight f hf
  obtain ⟨hst, hstore, hent, hcar, hvac, hfree, -, -, hq⟩ := s.install_core f.change
  have hrec : (s.install f.change).store.records = f.change.applyRecords s.store.records := by
    rw [hstore]; rfl
  refine ⟨⟨?_, fun _ => ⟨?_, ?_⟩⟩, ⟨fun h => ?_, fun g hg => by simp at hg, ?_⟩, ?_⟩
  · exact hrec ▸ f.change.applyRecords_pairwise order
  · exact hrec ▸ hent
  · exact hrec ▸ hcar
  · have := (idle (hst ▸ h)).1
    simp [hf] at this
  · refine forall_deferred_congr (q := s.queue) hq (Q := fun a c => a = c.accession ∧
      c.deferrable (s.install f.change).store.records = true ∧
      (findRecord (s.install f.change).store.records a).isSome = true) fun e he => ?_
    obtain ⟨named, deferrable, stands⟩ := deferred e he
    have noClear : f.change.kind ≠ .clearHoldings := fun hk => by simp [clear hk] at he
    have stays : (findRecord (f.change.applyRecords s.store.records) e.accession).isSome = true :=
      f.change.applyRecords_isSome noClear (fun hk => purge hk e he) stands
    refine ⟨named, ?_, hrec ▸ stays⟩
    rw [hrec]
    cases hc : e.payload with
    | writeItem h l => simpa [Change.deferrable, hc, Change.accession, named] using stays
    | _ => rw [hc] at deferrable; exact deferrable
  · have := f.change.slots_conserved s.store.records
    have := f.change.segments_conserved order amend
    simp only [State.storeConserved, hf, Option.map_some, Option.getD_some, Option.map_none,
      Option.getD_none, State.withEngine_index, State.withEngine_store, State.withEngine_engine, hvac,
      hfree, hrec] at conserved ⊢
    omega

theorem State.storeSound_releaseEntry {s : State} (f : InFlight) (hs : s.storeSound) :
    (s.releaseEntry f).storeSound := by
  rcases s.releaseEntry_cases f with ⟨-, h⟩ | ⟨-, h⟩ <;> rw [h]
  · exact hs
  · exact State.storeSound_removeEntry _ hs

@[simp] theorem State.releaseEntry_engine (s : State) (f : InFlight) :
    (s.releaseEntry f).engine = s.engine := by
  rcases s.releaseEntry_cases f with ⟨-, h⟩ | ⟨-, h⟩ <;> simp [h]

/-- An entry leaving and the engine made idle, in either order. -/
theorem State.releaseEntry_withEngine (s : State) (f : InFlight) (x : Engine) :
    (s.releaseEntry f).withEngine x = (s.withEngine x).releaseEntry f := by
  unfold State.releaseEntry
  cases f.source <;> rfl

theorem State.install_engine (s : State) (c : Change) : (s.install c).engine = s.engine :=
  (s.install_core c).2.2.2.2.2.2.1

/-- The state a completion with DONE leaves, before a pending reset or the engine's next take. -/
def State.completed (s : State) (f : InFlight) : State :=
  ((((s.install f.change).withEngine { s.engine with inFlight := none }).releaseEntry f).noteCommit
    f.change .done (revisionRecords f.change s.store.records
      (f.change.applyRecords s.store.records))).raise .commitDone

theorem State.complete_eq (s : State) (f : InFlight) :
    s.complete f = (s.completed f).afterCompletion := by
  simp only [State.complete, State.completed, State.releaseEntry_engine, State.install_engine,
    State.releaseEntry_withEngine]

/-- The engine idle again after a STORE_FAULT, with the provisional slot and segments returned (R146). -/
def State.returned (s : State) (f : InFlight) : State :=
  (s.withIndex { s.index with
      vacantSlots := s.index.vacantSlots + f.provisionalSlots
      freeSegments := s.index.freeSegments + f.provisionalSegments }).withEngine
    { s.engine with inFlight := none }

/-- The state a completion with STORE_FAULT leaves, before a pending reset or the engine's next take. -/
def State.storeFaulted (s : State) (f : InFlight) : State :=
  (((s.returned f).releaseEntry f).noteCommit f.change .storeFault s.store.records).raise .commitFailed

@[simp] theorem State.releaseEntry_store (s : State) (f : InFlight) :
    (s.releaseEntry f).store = s.store := by
  rcases s.releaseEntry_cases f with ⟨-, h⟩ | ⟨-, h⟩ <;> simp [h]

theorem State.failStore_eq (s : State) (f : InFlight) :
    s.failStore f = (s.storeFaulted f).afterCompletion := by
  simp only [State.failStore, State.storeFaulted, State.returned, State.releaseEntry_engine,
    State.releaseEntry_withEngine, State.releaseEntry_store, State.withEngine_store,
    State.withIndex_store, State.withIndex_engine]

theorem State.storeSound_completed {s : State} {f : InFlight} (hs : s.storeSound)
    (hf : s.engine.inFlight = some f) : (s.completed f).storeSound :=
  State.storeSound_congr (State.sameStore_raise _ _) (State.storeSound_congr
    (State.sameStore_noteCommit _ _ _ _) (State.storeSound_releaseEntry f
      (State.storeSound_installed hs hf)))

theorem State.storeSound_returned {s : State} {f : InFlight} (hs : s.storeSound)
    (hf : s.engine.inFlight = some f) : (s.returned f).storeSound := by
  obtain ⟨kept, ⟨idle, -, deferred⟩, conserved⟩ := hs
  refine ⟨kept, ⟨fun h => ⟨rfl, (idle h).2⟩, fun g hg => by simp [State.returned] at hg, deferred⟩, ?_⟩
  simp only [State.storeConserved, hf, State.returned, Option.map_some, Option.getD_some,
    Option.map_none, Option.getD_none, State.withEngine_index, State.withEngine_store,
    State.withEngine_engine, State.withIndex_index, State.withIndex_store] at conserved ⊢
  omega

theorem State.storeSound_storeFaulted {s : State} {f : InFlight} (hs : s.storeSound)
    (hf : s.engine.inFlight = some f) : (s.storeFaulted f).storeSound :=
  State.storeSound_congr (State.sameStore_raise _ _) (State.storeSound_congr
    (State.sameStore_noteCommit _ _ _ _) (State.storeSound_releaseEntry f
      (State.storeSound_returned hs hf)))

/-- The store a hard reset finds fits, whether the closing mark was written or not (R156). -/
theorem State.storeSound_hardStartUp {s : State} (hs : s.storeSound) (pending : List Instr)
    (selectLow : Bool) (k : Nat) (mark : Bool) :
    (State.startUp pending selectLow (s.storeAtHardReset mark) k).storeSound := by
  have old : ∀ pending selectLow k, (State.startUp pending selectLow s.store k).storeSound :=
    fun _ _ _ => State.storeSound_startUp _ _ _ hs.1.1 hs.fits.1 hs.fits.2
  unfold State.storeAtHardReset
  split
  · exact old _ _ _
  · rename_i f hf
    split
    · exact State.storeSound_startUp _ _ _ (f.change.applyRecords_pairwise hs.1.1)
        (hs.fits_applied hf).1 (hs.fits_applied hf).2
    · exact old _ _ _

/-- The scan rebuilds the two indexes and the free lists (R20, R22, R38). -/
theorem State.storeSound_scanComplete {s : State} (hs : s.storeSound) (starting : s.starting = true) :
    s.scanComplete.storeSound := by
  have fits := hs.fits
  obtain ⟨⟨order, -⟩, ⟨idle, -, deferred⟩, -⟩ := hs
  obtain ⟨flight, queue⟩ := idle starting
  refine ⟨⟨order, fun _ => ⟨map_accession_entriesOf _ _, rfl⟩⟩,
    ⟨fun h => by simp [State.scanComplete] at h, fun f hf => ?_, deferred⟩, ?_⟩
  · simp [State.scanComplete, flight] at hf
  · simp only [State.storeConserved, State.scanComplete, State.raise_index, State.raise_store,
      State.raise_engine, State.withStarting_index, State.withStarting_store, State.withStarting_engine,
      State.withIndex_index, State.withIndex_store, State.withIndex_engine, flight, Index.scanned,
      Index.beforeScan, Option.map_none, Option.getD_none, segmentsOwned] at *
    omega

theorem State.sameStore_takeExpiries (s : State) : s.sameStore s.takeExpiries :=
  State.takeExpiries_keeps (P := s.sameStore)
    (fun t v i h => h.trans (t.sameCore_expire v i).sameStore) s.sameStore_refl

theorem State.storeSound_tick {s : State} (hs : s.storeSound) : s.tick.storeSound :=
  State.storeSound_proceed (State.storeSound_congr (((State.sameStore_takeExpiries s).trans
    (State.sameStore_count _)).trans (State.sameStore_reachAllStages _)) hs)

/-- Every core move keeps the store sound. -/
theorem State.storeSound_coreMove {s u : State} (hs : s.storeSound) (h : s.coreMove u) :
    u.storeSound := by
  rcases h with rfl | ⟨hr, c, strict, rfl⟩ | ⟨-, n, c, m, r, -, rfl⟩ | ⟨-, n, loop, -, rfl⟩ |
    ⟨-, a, rfl⟩ | ⟨-, frozen, settings, rfl⟩ | rfl | ⟨a, rfl⟩ | ⟨f, hf, rfl⟩ | ⟨f, hf, rfl⟩ |
    ⟨pending, selectLow, k, mark, rfl⟩ | ⟨pending, selectLow, k, rfl⟩ | ⟨starting, rfl⟩ | h
  · exact hs
  · exact State.storeSound_acceptChange c strict hs hr.2.1
  · exact State.storeSound_proceed (State.storeSound_congr (State.sameStore_settle _)
      (State.storeSound_congr ⟨rfl, rfl, rfl, rfl, rfl, rfl, rfl, rfl⟩ hs))
  · exact State.storeSound_congr ⟨rfl, rfl, rfl, rfl, rfl, rfl, rfl, rfl⟩ hs
  · exact State.storeSound_removeEntry a hs
  · exact State.storeSound_proceed (State.storeSound_congr (State.sameStore_reachAllStages _)
      (State.storeSound_congr ⟨rfl, rfl, rfl, rfl, rfl, rfl, rfl, rfl⟩ hs))
  · exact State.storeSound_proceed hs
  · exact State.storeSound_proceed (State.storeSound_congr (State.sameStore_reachStages _ _) hs)
  · rw [State.complete_eq]
    exact State.afterCompletion_keeps State.storeSound_softReset State.storeSound_proceed
      (State.storeSound_completed hs hf)
  · rw [State.failStore_eq]
    exact State.afterCompletion_keeps State.storeSound_softReset State.storeSound_proceed
      (State.storeSound_storeFaulted hs hf)
  · exact State.storeSound_hardStartUp hs _ _ _ _
  · exact State.storeSound_startUp _ _ _ hs.1.1 hs.fits.1 hs.fits.2
  · exact State.storeSound_scanComplete hs starting
  · rw [h]
    exact State.storeSound_tick hs

/-- Settles O53: the store invariant reads the core of the state, and every core move keeps it. -/
theorem storeInvariant : Obligations.StoreInvariant := fun _ _ hs ht =>
  step_keeps_of_core (fun h hs => State.storeSound_congr h.sameStore hs) State.storeSound_coreMove hs ht

end Sys2Proof.Machine
end

section
/-! SUPPORT. Use counts and paths under every core move: a path names records that stand, and every use count
is the number of frames that name its record (R4, R8, R71, R145). -/

namespace Sys2Proof.Machine

/-! ### Paths that shrink -/

/-- Every cursor keeps its path or has lost it. -/
def pathsWithin (old new : Table Cursor 16) : Prop :=
  ∀ n, (new.get n).path = (old.get n).path ∨ (new.get n).path = []

theorem pathsWithin_refl (t : Table Cursor 16) : pathsWithin t t := fun _ => .inl rfl

theorem pathsWithin.trans {t u w : Table Cursor 16} (h : pathsWithin t u) (h' : pathsWithin u w) :
    pathsWithin t w := by
  intro n
  rcases h' n with e | e
  · rw [e]; exact h n
  · exact .inr e

/-- Every frame of a path that shrank stood before. -/
theorem pathsWithin.mem {t u : Table Cursor 16} (h : pathsWithin t u) {c : Cursor} (hc : c ∈ u.list)
    {f : PathFrame} (hf : f ∈ c.path) : ∃ d ∈ t.list, f ∈ d.path := by
  obtain ⟨n, rfl⟩ := Table.mem_list_iff.1 hc
  rcases h n with e | e
  · exact ⟨t.get n, t.get_mem n, e ▸ hf⟩
  · simp [e] at hf

/-- An item that no path names is named by none of the paths that are left. -/
theorem pathsWithin.framesNaming_eq_zero {t u : Table Cursor 16} (h : pathsWithin t u) {a : Nat}
    (ha : framesNaming t a = 0) : framesNaming u a = 0 := by
  rw [Machine.framesNaming_eq_zero] at ha ⊢
  intro c hc f hf
  obtain ⟨d, hd, hfd⟩ := h.mem hc hf
  exact ha d hd f hfd

theorem pathsWithin_map {t : Table Cursor 16} {f : Cursor → Cursor}
    (hf : ∀ c, (f c).path = c.path ∨ (f c).path = []) : pathsWithin t (t.map f) := by
  intro n
  rw [Table.get_map]
  exact hf _

@[simp] theorem Cursor.yielded_path (c : Cursor) : c.yielded.path = c.path := rfl
@[simp] theorem Cursor.detachedNow_path (c : Cursor) : c.detachedNow.path = [] := rfl

/-- A stage taken leaves each path or drops it (R169, R170). -/
theorem State.takeStage_pathsWithin (s : State) (a k : Nat) :
    pathsWithin s.cursors (s.takeStage a k).cursors := by
  obtain ⟨m, f, h, -, hf⟩ := s.takeStage_eq a k
  rw [h]
  refine pathsWithin_map fun c => ?_
  rcases hf with rfl | rfl | rfl
  · exact .inl rfl
  · dsimp only; split <;> simp
  · dsimp only; split <;> simp

/-! ### Paths and counts kept -/

/-- Sound paths stay sound where they shrink. -/
theorem State.pathsSound_shrink {s t : State} (h : s.sameStore t)
    (hp : pathsWithin s.cursors t.cursors) (hs : s.pathsSound) : t.pathsSound := by
  obtain ⟨h1, h2, -, -, -, -, h7, -⟩ := h
  obtain ⟨stand, idle, purge⟩ := hs
  refine ⟨fun c hc f hf => ?_, fun hst c hc => ?_, fun f hf hk => ?_⟩
  · obtain ⟨d, hd, hfd⟩ := hp.mem hc hf
    simpa only [State.record?, h2] using stand d hd f hfd
  · obtain ⟨n, rfl⟩ := Table.mem_list_iff.1 hc
    rcases hp n with e | e
    · exact e.trans (idle (h1 ▸ hst) _ (s.cursors.get_mem n))
    · exact e
  · obtain ⟨none, withdrawn⟩ := purge f (h7 ▸ hf) hk
    exact ⟨hp.framesNaming_eq_zero none, by simpa only [State.record?, h2] using withdrawn⟩

/-- The use invariant reads the store, the paths and the use counts. -/
theorem State.usesSound_congr {s t : State} (h : s.sameStore t)
    (hc : ∀ n, (t.cursors.get n).path = (s.cursors.get n).path)
    (hi : t.index.entries.map (fun e => (e.accession, e.useCount)) =
      s.index.entries.map (fun e => (e.accession, e.useCount))) (hs : s.usesSound) : t.usesSound := by
  obtain ⟨store, exact_, paths⟩ := hs
  refine ⟨State.storeSound_congr h store, fun hst e he => ?_,
    State.pathsSound_shrink h (fun n => .inl (hc n)) paths⟩
  have : (e.accession, e.useCount) ∈ s.index.entries.map (fun e => (e.accession, e.useCount)) :=
    hi ▸ List.mem_map_of_mem he
  obtain ⟨x, hx, hxe⟩ := List.mem_map.1 this
  obtain ⟨ha, hu⟩ := Prod.mk.inj hxe
  rw [framesNaming_congr hc, ← ha, ← hu]
  exact exact_ (h.1 ▸ hst) x hx

theorem State.sameCore.usesSound {s t : State} (h : s.sameCore t) (hs : s.usesSound) : t.usesSound :=
  State.usesSound_congr h.sameStore (fun _ => by rw [h.2.2.2.1]) (by rw [h.2.2.1]) hs

/-- Settling makes every count exact, over sound paths (R72). -/
theorem State.usesSound_settleCounts {s : State} (store : s.storeSound) (paths : s.pathsSound) :
    s.settleCounts.usesSound :=
  ⟨State.storeSound_congr s.sameStore_settleCounts store, fun _ => s.settleCounts_counts,
    State.pathsSound_shrink s.sameStore_settleCounts (pathsWithin_refl _) paths⟩

theorem State.usesSound_reachStages {s : State} (a : Nat) (hs : s.usesSound) :
    (s.reachStages a).usesSound := by
  obtain ⟨store, _, paths⟩ := id hs
  rcases State.reachStages_cases
    (P := fun t => s.sameStore t ∧ pathsWithin s.cursors t.cursors)
    (fun t a k h _ _ => ⟨h.1.trans (t.sameStore_takeStage a k), h.2.trans (t.takeStage_pathsWithin a k)⟩)
    a ⟨s.sameStore_refl, pathsWithin_refl _⟩ with e | ⟨t, ⟨same, within⟩, e⟩ <;> rw [e]
  · exact hs
  · exact State.usesSound_settleCounts (State.storeSound_congr same store)
      (State.pathsSound_shrink same within paths)

theorem State.usesSound_reachAllStages {s : State} (hs : s.usesSound) : s.reachAllStages.usesSound :=
  foldl_keeps (fun _ a h => State.usesSound_reachStages a h) _ hs

theorem State.usesSound_settle {s : State} (store : s.storeSound) (paths : s.pathsSound) :
    s.settle.usesSound :=
  foldl_keeps (fun _ a h => State.usesSound_reachStages a h) _ (State.usesSound_settleCounts store paths)

/-! ### Entries leaving, commits starting -/

theorem State.usesSound_removeEntry {s : State} (a : Nat) (hs : s.usesSound) :
    (s.removeEntry a).usesSound := by
  obtain ⟨store, exact_, paths⟩ := hs
  refine ⟨State.storeSound_removeEntry a store, fun hst e he => ?_, paths⟩
  obtain ⟨x, hx, rfl⟩ := List.mem_map.1 he
  by_cases h : x.accession = a
  · simpa [h] using exact_ hst x hx
  · simpa [h] using exact_ hst x hx

theorem State.usesSound_noteCommit {s : State} (c : Change) (o : CommitOutcome) (l : List ItemRecord)
    (hs : s.usesSound) : (s.noteCommit c o l).usesSound :=
  State.usesSound_congr (s.sameStore_noteCommit c o l) (fun _ => by simp) (by simp) hs

theorem State.usesSound_raise {s : State} (x : Notice) (hs : s.usesSound) : (s.raise x).usesSound :=
  State.usesSound_congr (s.sameStore_raise x) (fun _ => rfl) rfl hs

theorem State.usesSound_lateFailure {s : State} (e : Entry) (o : CommitOutcome) (hs : s.usesSound) :
    (s.lateFailure e o).usesSound :=
  State.usesSound_raise _ (State.usesSound_noteCommit _ _ _ (State.usesSound_removeEntry _ hs))

/-- A take or a start leaves the paths sound where no purge starts. -/
theorem State.pathsSound_startCommit {s : State} {c : Change} (source : Source) (hs : s.pathsSound)
    (purge : c.kind = .purgeItem → framesNaming s.cursors c.accession = 0 ∧
      ∀ r, s.record? c.accession = some r → r.state = .withdrawn) :
    (s.startCommit c source).pathsSound := by
  obtain ⟨stand, idle, -⟩ := hs
  refine ⟨stand, idle, fun f hf hk => ?_⟩
  obtain rfl : (⟨c, source, c.slotsNeeded s.store.records, c.segmentsNeeded⟩ : InFlight) = f := by
    simpa [State.startCommit] using hf
  exact purge hk

theorem State.usesSound_take {s : State} {e : Entry} (hs : s.usesSound) (hm : s.mayTake = true)
    (he : s.oldestReady = some e) (hr : s.recheck e = none) :
    ((s.withQueue (modifyEntry e.accession (fun x => { x with state := .committing })
      s.queue)).startCommit e.payload .queue).usesSound := by
  obtain ⟨store, exact_, paths⟩ := hs
  have deferrable := (store.2.1.2.2 e (List.mem_of_find?_eq_some he)).2.1
  exact ⟨State.storeSound_take store hm he hr, exact_, State.pathsSound_startCommit _ paths
    fun hk => absurd hk (Change.deferrable_cases deferrable).2.2⟩

theorem State.usesSound_proceed {s : State} (hs : s.usesSound) : s.proceed.usesSound :=
  State.proceed_keeps (P := State.usesSound) (fun _ e o h _ _ _ => State.usesSound_lateFailure e o h)
    (fun _ _ h hm he hr => State.usesSound_take h hm he hr) hs

/-! ### An accepted change -/

/-- An item of use count 0 whose record stands is named by no frame (R4). -/
theorem State.framesNaming_of_useCount {s : State} (hs : s.usesSound) (started : s.starting = false)
    {a : Nat} (stands : (s.record? a).isSome = true) : framesNaming s.cursors a = s.index.useCount a := by
  obtain ⟨r, hr⟩ := Option.isSome_iff_exists.1 stands
  obtain ⟨e, he, hm, ha⟩ := State.entry_of_record hs.1.1 started hr
  have := hs.2.1 started e hm
  simp [Index.useCount, he, this, ha]

/-- A purge that passes the record state step finds a WITHDRAWN record of use count 0 (R7). -/
theorem State.withdrawn_of_recordRefusal {s : State} {a : Nat} {strict : Bool}
    (h : s.recordRefusal (.purgeItem a) strict = none) :
    s.index.useCount a = 0 ∧ ∃ r, s.record? a = some r ∧ r.state = .withdrawn := by
  cases hr : s.record? a with
  | none => simp [State.recordRefusal, recordStateRefusal, Change.accession, hr] at h
  | some r =>
    cases hst : r.state <;>
      simp [State.recordRefusal, recordStateRefusal, Change.accession, hr, hst] at h ⊢
    by_contra hu
    simp [hu] at h

theorem State.usesSound_joined {s : State} {c : Change} {strict : Bool} (hs : s.usesSound)
    (started : s.starting = false) (checks : s.passesChecks c strict)
    (free : s.blockedByFlight c = false) (hd : c.deferrable s.store.records = true) :
    (s.joined c).usesSound := by
  obtain ⟨store, exact_, paths⟩ := hs
  refine ⟨State.storeSound_joined store started checks free hd, fun hst e he => ?_, paths⟩
  obtain ⟨x, hx, rfl⟩ := List.mem_map.1 he
  by_cases h : x.accession = c.accession
  · simpa [State.joined, h] using exact_ hst x hx
  · simpa [State.joined, h] using exact_ hst x hx

theorem State.usesSound_acceptChange {s : State} (c : Change) (strict : Bool) (hs : s.usesSound)
    (started : s.starting = false) : (s.acceptChange c strict).1.usesSound := by
  have store := State.storeSound_acceptChange c strict hs.1 started
  rcases s.acceptChange_cases c strict with
    h | ⟨checks, free, hd, -, -, h⟩ | ⟨⟨-, -, record, -, -⟩, -, -, -, -, h⟩ <;> rw [h] at store ⊢
  · exact hs
  · exact State.usesSound_proceed (State.usesSound_reachStages _
      (State.usesSound_joined hs started checks free hd))
  · refine ⟨store, hs.2.1, State.pathsSound_startCommit _ hs.2.2 fun hk => ?_⟩
    cases c <;> simp [Change.kind] at hk
    obtain ⟨none, r, hr, withdrawn⟩ := State.withdrawn_of_recordRefusal record
    refine ⟨(State.framesNaming_of_useCount hs started (by simp [Change.accession, hr])).trans none,
      fun r' hr' => ?_⟩
    rw [Change.accession, hr] at hr'
    cases hr'
    exact withdrawn

/-! ### A cursor's path work -/

/-- The frames a cursor command leaves name what the cursor's frames named, or a record that stands and is
not WITHDRAWN. -/
theorem State.pathMove_path {s : State} {n : Fin 16} {c : Cursor} (h : s.pathMove n c) :
    ∀ f ∈ c.path, (∃ g ∈ (s.cursors.get n).path, f.accession = g.accession) ∨
      standing s.store.records f.accession := by
  rcases h with rfl | ⟨-, rfl⟩ | ⟨r, context, clearance, a, p, -, rfl⟩ | ⟨-, -, -, p, clearance, rfl⟩
  · simp [Cursor.closed]
  · exact Cursor.fetched_path _ _ _ _
  · intro f hf
    rw [Cursor.placed_path] at hf
    exact .inr ((buildPath_path _ _ _).2.1 f (Cursor.landed_path _ _ f hf))
  · exact fun f hf => .inr ((buildPath_path _ _ _).2.1 f (Cursor.landed_path _ _ f hf))

/-- Path work whose frames name what stood before, or records that stand and are not WITHDRAWN, leaves the
paths sound. -/
theorem State.pathsSound_setCursor {s : State} {n : Fin 16} {c : Cursor} (hs : s.pathsSound)
    (started : s.starting = false)
    (hc : ∀ f ∈ c.path, (∃ g ∈ (s.cursors.get n).path, f.accession = g.accession) ∨
      standing s.store.records f.accession) : (s.setCursor n c).pathsSound := by
  obtain ⟨stand, -, purge⟩ := hs
  have split : ∀ d ∈ (s.setCursor n c).cursors.list, d = c ∨ d ∈ s.cursors.list := by
    intro d hd
    obtain ⟨m, rfl⟩ := Table.mem_list_iff.1 hd
    rw [State.setCursor_cursors, Table.get_set]
    split
    · exact .inl rfl
    · exact .inr (s.cursors.get_mem m)
  refine ⟨fun d hd f hf => ?_, fun hst => by simp [started] at hst, fun g hg hk => ?_⟩
  · rcases split d hd with rfl | hd
    · rcases hc f hf with ⟨g, hg, e⟩ | ⟨r, hr, -⟩
      · rw [e]; exact stand _ (s.cursors.get_mem n) g hg
      · exact Option.isSome_iff_exists.2 ⟨r, hr⟩
    · exact stand d hd f hf
  · obtain ⟨none, withdrawn⟩ := purge g hg hk
    refine ⟨framesNaming_eq_zero.2 fun d hd f hf e => ?_, withdrawn⟩
    rcases split d hd with rfl | hd
    · rcases hc f hf with ⟨x, hx, ex⟩ | ⟨r, hr, standing⟩
      · exact framesNaming_eq_zero.1 none _ (s.cursors.get_mem n) x hx (ex ▸ e)
      · exact standing (withdrawn r (e ▸ hr))
    · exact framesNaming_eq_zero.1 none d hd f hf e

theorem State.usesSound_afterPathWork {s : State} {n : Fin 16} {c : Cursor} (m : Notices)
    (r : Resolution) (hs : s.usesSound) (started : s.starting = false) (h : s.pathMove n c) :
    (s.afterPathWork n c m r).usesSound := by
  have same : (s.setCursor n c).sameStore
      (((s.setCursor n c).withNotices m).withResolution r) := ⟨rfl, rfl, rfl, rfl, rfl, rfl, rfl, rfl⟩
  exact State.usesSound_proceed (State.usesSound_settle (State.storeSound_congr same hs.1)
    (State.pathsSound_shrink same (pathsWithin_refl _)
      (State.pathsSound_setCursor hs.2.2 started (State.pathMove_path h))))

/-! ### The end of a commit, and the resets -/

/-- The paths after a new version comes into force still name records that stand (R8, R145). -/
theorem State.pathsSound_installed {s : State} {f : InFlight} (hs : s.usesSound)
    (hf : s.engine.inFlight = some f) :
    ((s.install f.change).withEngine { s.engine with inFlight := none }).pathsSound := by
  obtain ⟨⟨-, ⟨idle, -, -⟩, -⟩, -, stand, -, purge⟩ := hs
  have hst : (s.install f.change).starting = s.starting := (s.install_core f.change).1
  refine ⟨fun c hc x hx => ?_, fun h => ?_, fun g hg => by simp at hg⟩
  · by_cases hk : f.change.kind = .clearHoldings
    · cases hcl : f.change <;> simp [hcl, Change.kind] at hk
      simp only [hcl, State.install, State.dropRemoved_eq, State.withEngine_cursors,
        State.settleCounts_cursors, State.withNotices_cursors, State.withCursors_cursors,
        State.withIndex_cursors, State.withStore_cursors] at hc
      obtain ⟨n, rfl⟩ := Table.mem_list_iff.1 hc
      rw [Table.get_map] at hx
      split at hx
      · simp [Cursor.faultedWith] at hx
      · rename_i keeps
        simp only [Cursor.namesRemoved, List.any_eq_true, not_exists, not_and] at keeps
        have := keeps x hx
        rw [Bool.not_eq_true, Option.isNone_eq_false_iff] at this
        simpa [State.record?, State.install, State.dropRemoved_eq, hcl, Change.applyStore] using this
    · rw [State.install_of_ne hk] at hc ⊢
      obtain ⟨n, rfl⟩ := Table.mem_list_iff.1 hc
      simp only [State.withEngine_cursors, State.withCursors_cursors, Table.get_map,
        Cursor.clampedTo_path] at hx
      exact f.change.applyRecords_isSome hk
        (fun hp => framesNaming_eq_zero.1 (purge f hf hp).1 _ (s.cursors.get_mem n) x hx)
        (stand _ (s.cursors.get_mem n) x hx)
  · have := (idle (hst ▸ h)).1
    simp [hf] at this

/-- The counts after a new version comes into force: kept, 0 for a new record, and settled after a CLEAR
HOLDINGS (R144, R145). -/
theorem State.usesExact_installed {s : State} (f : InFlight) (hs : s.usesSound) :
    ((s.install f.change).withEngine { s.engine with inFlight := none }).usesExact := by
  by_cases hk : f.change.kind = .clearHoldings
  · cases hcl : f.change <;> simp [hcl, Change.kind] at hk
    intro _
    rw [State.install, State.dropRemoved_eq]
    exact State.settleCounts_counts _
  · rw [State.install_of_ne hk]
    intro started e he
    have started : s.starting = false := started
    have same : framesNaming (s.cursors.map fun x =>
        x.clampedTo f.change.accession (f.change.applyRecords s.store.records)) e.accession =
        framesNaming s.cursors e.accession := framesNaming_congr (by simp) _
    refine Eq.trans ?_ same.symm
    obtain ⟨r, hr, ha, hold | ⟨hnew, h0⟩⟩ := mem_entriesOf he
    · exact hs.2.1 started e hold
    · rw [h0, ha, eq_comm, framesNaming_eq_zero]
      intro c hc x hx e'
      obtain ⟨r', hr'⟩ := Option.isSome_iff_exists.1 (hs.2.2.1 c hc x hx)
      obtain ⟨y, hy, -⟩ := State.entry_of_record hs.1.1 started hr'
      rw [← e', hy] at hnew
      cases hnew

theorem State.usesSound_releaseEntry {s : State} (f : InFlight) (hs : s.usesSound) :
    (s.releaseEntry f).usesSound := by
  rcases s.releaseEntry_cases f with ⟨-, h⟩ | ⟨-, h⟩ <;> rw [h]
  · exact hs
  · exact State.usesSound_removeEntry _ hs

theorem State.usesSound_completed {s : State} {f : InFlight} (hs : s.usesSound)
    (hf : s.engine.inFlight = some f) : (s.completed f).usesSound :=
  State.usesSound_raise _ (State.usesSound_noteCommit _ _ _ (State.usesSound_releaseEntry f
    ⟨State.storeSound_installed hs.1 hf, State.usesExact_installed f hs,
      State.pathsSound_installed hs hf⟩))

theorem State.usesSound_returned {s : State} {f : InFlight} (hs : s.usesSound)
    (hf : s.engine.inFlight = some f) : (s.returned f).usesSound :=
  ⟨State.storeSound_returned hs.1 hf, hs.2.1, hs.2.2.1, hs.2.2.2.1,
    fun g hg => by simp [State.returned] at hg⟩

theorem State.usesSound_storeFaulted {s : State} {f : InFlight} (hs : s.usesSound)
    (hf : s.engine.inFlight = some f) : (s.storeFaulted f).usesSound :=
  State.usesSound_raise _ (State.usesSound_noteCommit _ _ _ (State.usesSound_releaseEntry f
    (State.usesSound_returned hs hf)))

theorem State.usesSound_startUp {store : Store} {pending : List Instr} {selectLow : Bool} {k : Nat}
    (h : (State.startUp pending selectLow store k).storeSound) :
    (State.startUp pending selectLow store k).usesSound := by
  have closed : ∀ c ∈ (State.startUp pending selectLow store k).cursors.list, c.path = [] := by
    intro c hc
    obtain ⟨n, rfl⟩ := Table.mem_list_iff.1 hc
    simp [State.startUp, Cursor.closed]
  refine ⟨h, fun hst => by simp [State.startUp] at hst, fun c hc f hf => ?_, fun _ => closed,
    fun f hf => by simp [State.startUp, Engine.afterReset] at hf⟩
  simp [closed c hc] at hf

theorem State.usesSound_scanComplete {s : State} (hs : s.usesSound) (starting : s.starting = true) :
    s.scanComplete.usesSound := by
  obtain ⟨store, -, stand, idle, -⟩ := hs
  have flight := (store.2.1.1 starting).1
  refine ⟨State.storeSound_scanComplete store starting, fun _ e he => ?_, stand,
    fun hst => by simp [State.scanComplete] at hst, fun f hf => by simp [State.scanComplete, flight] at hf⟩
  have : e.useCount = 0 := by
    obtain ⟨r, -, -, h | ⟨-, h⟩⟩ := mem_entriesOf he
    · simp [Index.beforeScan] at h
    · exact h
  rw [this, eq_comm, framesNaming_eq_zero]
  intro c hc f hf
  simp [idle starting c hc] at hf

theorem State.usesSound_tick {s : State} (hs : s.usesSound) : s.tick.usesSound :=
  State.tick_keeps (P := State.usesSound) (fun s v i => (s.sameCore_expire v i).usesSound)
    (fun s => State.usesSound_congr s.sameStore_count (fun _ => by simp) (by simp))
    (fun _ => State.usesSound_reachAllStages) (fun _ => State.usesSound_proceed) hs

/-- Every core move keeps the uses sound. -/
theorem State.usesSound_coreMove {s u : State} (hs : s.usesSound) (h : s.coreMove u) : u.usesSound := by
  rcases h with rfl | ⟨hr, c, strict, rfl⟩ | ⟨hr, n, c, m, r, hp, rfl⟩ | ⟨-, n, loop, -, rfl⟩ |
    ⟨-, a, rfl⟩ | ⟨-, frozen, settings, rfl⟩ | rfl | ⟨a, rfl⟩ | ⟨f, hf, rfl⟩ | ⟨f, hf, rfl⟩ |
    ⟨pending, selectLow, k, mark, rfl⟩ | ⟨pending, selectLow, k, rfl⟩ | ⟨starting, rfl⟩ | h
  · exact hs
  · exact State.usesSound_acceptChange c strict hs hr.2.1
  · exact State.usesSound_afterPathWork m r hs hr.2.1 hp
  · refine State.usesSound_congr (s := s) ⟨rfl, rfl, rfl, rfl, rfl, rfl, rfl, rfl⟩ (fun m => ?_) rfl hs
    rw [State.setCursor_cursors, Table.get_set]
    split
    · rename_i h; subst h; rfl
    · rfl
  · exact State.usesSound_removeEntry a hs
  · exact State.usesSound_proceed (State.usesSound_reachAllStages
      (State.usesSound_congr ⟨rfl, rfl, rfl, rfl, rfl, rfl, rfl, rfl⟩ (fun _ => rfl) rfl hs))
  · exact State.usesSound_proceed hs
  · exact State.usesSound_proceed (State.usesSound_reachStages a hs)
  · rw [State.complete_eq]
    exact State.afterCompletion_keeps (fun h => State.usesSound_startUp (State.storeSound_softReset h.1))
      State.usesSound_proceed (State.usesSound_completed hs hf)
  · rw [State.failStore_eq]
    exact State.afterCompletion_keeps (fun h => State.usesSound_startUp (State.storeSound_softReset h.1))
      State.usesSound_proceed (State.usesSound_storeFaulted hs hf)
  · exact State.usesSound_startUp (State.storeSound_hardStartUp hs.1 _ _ _ _)
  · exact State.usesSound_startUp
      (State.storeSound_startUp _ _ _ hs.1.1.1 hs.1.fits.1 hs.1.fits.2)
  · exact State.usesSound_scanComplete hs starting
  · rw [h]
    exact State.usesSound_tick hs

/-- Settles O54: the use invariant reads the core of the state, and every core move keeps it. -/
theorem useCountInvariant : Obligations.UseCountInvariant := fun _ _ hs ht =>
  step_keeps_of_core State.sameCore.usesSound State.usesSound_coreMove hs ht

end Sys2Proof.Machine
end

section
/-! SUPPORT. The fields of a cursor under every core move (R62, R80, R81). -/

namespace Sys2Proof.Machine

/-! ### One cursor -/

@[simp] theorem Cursor.closed_coherent : Cursor.closed.coherent := by
  simp [Cursor.coherent, Cursor.closed]

/-- A coherent cursor with a path is in none of the three states that hold none. -/
theorem Cursor.coherent.state_of_path {c : Cursor} (hc : c.coherent) (hp : c.path ≠ []) :
    c.state ≠ .closed ∧ c.state ≠ .detached ∧ c.state ≠ .faulted := by
  obtain ⟨-, h, -⟩ := hc
  exact ⟨fun e => hp (h.2 (.inl e)), fun e => hp (h.2 (.inr (.inl e))),
    fun e => hp (h.2 (.inr (.inr e)))⟩

theorem Cursor.detachedNow_coherent (c : Cursor) : c.detachedNow.coherent := by
  simp [Cursor.coherent, Cursor.detachedNow]

theorem Cursor.faultedWith_coherent (c : Cursor) (code : FaultCode) :
    (c.faultedWith code).coherent := by
  simp [Cursor.coherent, Cursor.faultedWith]

/-- A yield request leaves a cursor with a path coherent (R99). -/
theorem Cursor.yielded_coherent {c : Cursor} (hc : c.coherent) (hp : c.path ≠ []) :
    c.yielded.coherent := by
  have states := hc.state_of_path hp
  obtain ⟨-, -, fault, -, -, depth⟩ := hc
  unfold Cursor.yielded
  by_cases ho : c.state = .open
  · refine ⟨by simp [ho], by simp [ho, hp], ?_, by simp [ho], by simp, depth⟩
    simpa [ho] using fault
  · refine ⟨by simp [ho, states], by simp [ho, hp, states], ?_, by simp [ho], by simp, depth⟩
    simpa [ho] using fault

theorem Cursor.names_path {c : Cursor} {a : Nat} (h : c.names a = true) : c.path ≠ [] := by
  rintro e
  simp [Cursor.names, e] at h

/-- A clamp leaves a cursor coherent (R102). -/
theorem Cursor.clampedTo_coherent {c : Cursor} (hc : c.coherent) (a : Nat) (l : List ItemRecord) :
    (c.clampedTo a l).coherent := by
  obtain ⟨closed, path, fault, op, yield, depth⟩ := hc
  rcases c.clampedTo_cases a l with h | ⟨p, hn, h⟩ <;> rw [h]
  · exact ⟨closed, path, fault, op, yield, depth⟩
  · exact ⟨fun e => absurd e hn, path, fault, op, yield, depth⟩

/-- A change of the loop or the sequence leaves a cursor that is not CLOSED coherent. -/
theorem Cursor.coherent_of_fields {c d : Cursor} (hc : c.coherent) (hn : c.state ≠ .closed)
    (h : d.state = c.state ∧ d.path = c.path ∧ d.fault = c.fault ∧ d.yieldFlag = c.yieldFlag) :
    d.coherent := by
  obtain ⟨hs, hp, hf, hy⟩ := h
  obtain ⟨-, path, fault, op, yield, depth⟩ := hc
  rw [Cursor.coherent, hs, hp, hf, hy]
  exact ⟨fun e => absurd e hn, path, fault, op, yield, depth⟩

/-! ### A FETCH -/

/-- A cursor that stands on a path with no fault, whatever its state, as a FETCH goes on from it. -/
def Cursor.onPath (c : Cursor) : Prop := c.path ≠ [] ∧ c.path.length ≤ 4 ∧ c.fault = none

/-- A cursor on a path takes a state that holds one, and agrees with its yield flag. -/
theorem Cursor.onPath.coherent {c : Cursor} (h : c.onPath) (hs : c.state = .ended ∨ c.state = .stalled ∨
    c.state = c.playing) : c.coherent := by
  obtain ⟨hp, hl, hf⟩ := h
  rcases hs with hs | hs | hs
  · exact ⟨by simp [hs], by simp [hs, hp], by simp [hs, hf], by simp [hs], by simp [hs], hl⟩
  · exact ⟨by simp [hs], by simp [hs, hp], by simp [hs, hf], by simp [hs], by simp [hs], hl⟩
  · cases hy : c.yieldFlag <;> simp only [Cursor.playing, hy] at hs <;>
      refine ⟨?_, ?_, ?_, ?_, ?_, hl⟩ <;> simp [hs, hp, hf, hy]

/-- The move after a descriptor leaves the cursor coherent (R94). -/
theorem Cursor.moved_coherent {c : Cursor} (h : c.onPath) (v : PathView) (duration stop : Nat) :
    (c.moved v duration stop).1.coherent := by
  have landed : ∀ (d : Cursor) (w : Walk) (state : CursorState), d.fault = none → w.path.length ≤ 4 →
      w.path ≠ [] ∨ w.stop ≠ none →
      (state = .ended ∨ state = (d.landed w).playing) →
      (if w.stop.isSome then d.landed w else { d.landed w with state := state }).coherent := by
    intro d w state hf hl hp hs
    rcases d.landed_cases w with ⟨hw, e⟩ | ⟨code, hw, e⟩ | ⟨hw, e⟩
    · rw [e] at hs ⊢
      simp only [hw, Option.isSome_none, Bool.false_eq_true, if_false]
      refine Cursor.onPath.coherent ⟨hp.resolve_right (fun h => h hw), hl, hf⟩ ?_
      rcases hs with hs | hs
      · exact .inl hs
      · exact .inr (.inr hs)
    · simp only [hw, Option.isSome_some, if_true, e]
      simp [Cursor.coherent]
    · simp only [hw, Option.isSome_some, if_true, e]
      simp [Cursor.coherent]
  obtain ⟨hp, hl, hf⟩ := h
  unfold Cursor.moved
  dsimp only
  split
  · rename_i l _
    obtain ⟨bl, -, bp⟩ := buildPath_path v c.top l.start
    exact landed _ _ _ hf bl (by by_cases hw : (buildPath v c.top l.start).stop = none <;> simp_all)
      (.inr rfl)
  · obtain ⟨al, -, ap⟩ := advancePath_path v c.path stop
    refine landed _ _ _ hf (al hl) (.inl (ap hp)) ?_
    split <;> simp

/-- What a FETCH leaves of a cursor on a path is coherent (R91 to R96). -/
theorem Cursor.fetchCurrent_coherent {c : Cursor} (h : c.onPath) (v : PathView)
    (volumes : Table Volume 64) (n : Fin 16) (rebuilt : Bool) :
    (c.fetchCurrent v volumes n rebuilt).cursor.coherent := by
  unfold Cursor.fetchCurrent
  dsimp only
  split
  · exact Cursor.onPath.coherent (c := { c with state := .ended, clampNote := false, pendingWrap := false })
      h (.inl rfl)
  · unfold Cursor.fetchSpan
    dsimp only
    split
    · exact Cursor.onPath.coherent (c := { c with state := .stalled }) h (.inr (.inl rfl))
    · refine Cursor.moved_coherent ?_ _ _ _
      exact h

/-- A FETCH leaves a cursor that is not CLOSED coherent (R89 to R96). -/
theorem Cursor.fetched_coherent {c : Cursor} (hc : c.coherent) (hn : c.state ≠ .closed) (v : PathView)
    (volumes : Table Volume 64) (n : Fin 16) : (c.fetched v volumes n).cursor.coherent := by
  obtain ⟨-, path, fault, -, -, depth⟩ := id hc
  unfold Cursor.fetched
  split
  · exact hc
  · rename_i hd
    split
    · exact hc
    · rename_i hf
      have noFault : c.fault = none := by
        cases h : c.fault
        · rfl
        · exact absurd (fault.1 (by simp [h])) hf
      have onPath : c.onPath := ⟨fun e => by simpa [hn, hd, hf] using path.1 e, depth, noFault⟩
      split
      · exact Cursor.fetchCurrent_coherent onPath _ _ _ _
      · dsimp only
        obtain ⟨bl, -, bp⟩ := buildPath_path v c.top c.position
        rcases Cursor.landed_cases { c with lastCopy := none } (buildPath v c.top c.position) with
          ⟨hw, e⟩ | ⟨code, hw, e⟩ | ⟨hw, e⟩ <;> rw [e, hw]
        · refine Cursor.fetchCurrent_coherent ⟨?_, ?_, ?_⟩ _ _ _ _
          · exact bp hw
          · exact bl
          · exact noFault
        · simp [Cursor.coherent]
        · simp [Cursor.coherent]

/-! ### Every cursor -/

/-- Every cursor of a table has a property where each reads so. -/
theorem forall_cursors_iff {t : Table Cursor 16} {P : Cursor → Prop} :
    (∀ c ∈ t.list, P c) ↔ ∀ n, P (t.get n) := by
  constructor
  · exact fun h n => h _ (t.get_mem n)
  · intro h c hc
    obtain ⟨n, rfl⟩ := Table.mem_list_iff.1 hc
    exact h n

theorem State.cursorsCoherent_iff {s : State} :
    s.cursorsCoherent ↔ ∀ n, (s.cursors.get n).coherent := forall_cursors_iff

theorem State.cursorsCoherent_congr {s t : State} (h : t.cursors = s.cursors) (hs : s.cursorsCoherent) :
    t.cursorsCoherent := by
  unfold State.cursorsCoherent
  rwa [h]

theorem State.cursorsCoherent_map {s t : State} {f : Cursor → Cursor} (h : t.cursors = s.cursors.map f)
    (hf : ∀ c : Cursor, c.coherent → (f c).coherent) (hs : s.cursorsCoherent) : t.cursorsCoherent := by
  rw [State.cursorsCoherent_iff] at hs ⊢
  intro n
  rw [h, Table.get_map]
  exact hf _ (hs n)

theorem State.cursorsCoherent_setCursor {s : State} {n : Fin 16} {c : Cursor} (hc : c.coherent)
    (hs : s.cursorsCoherent) : (s.setCursor n c).cursorsCoherent := by
  rw [State.cursorsCoherent_iff] at hs ⊢
  intro m
  rw [State.setCursor_cursors, Table.get_set]
  split
  · exact hc
  · exact hs m

/-- A stage taken leaves every cursor coherent (R99, R100). -/
theorem State.cursorsCoherent_takeStage {s : State} (a k : Nat) (hs : s.cursorsCoherent) :
    (s.takeStage a k).cursorsCoherent := by
  obtain ⟨m, f, h, -, hf⟩ := s.takeStage_eq a k
  rw [h]
  refine State.cursorsCoherent_map rfl (fun c hc => ?_) hs
  rcases hf with rfl | rfl | rfl
  · exact hc
  · dsimp only
    split
    · exact Cursor.yielded_coherent hc (Cursor.names_path ‹_›)
    · exact hc
  · dsimp only
    split
    · exact Cursor.detachedNow_coherent c
    · exact hc

theorem State.cursorsCoherent_proceed {s : State} (hs : s.cursorsCoherent) : s.proceed.cursorsCoherent :=
  State.cursorsCoherent_congr s.proceed_cursors hs

theorem State.cursorsCoherent_reachStages {s : State} (a : Nat) (hs : s.cursorsCoherent) :
    (s.reachStages a).cursorsCoherent :=
  State.reachStages_keeps (P := State.cursorsCoherent)
    (fun _ a k h _ _ => State.cursorsCoherent_takeStage a k h) (fun _ h => h) a hs

theorem State.cursorsCoherent_reachAllStages {s : State} (hs : s.cursorsCoherent) :
    s.reachAllStages.cursorsCoherent :=
  foldl_keeps (fun _ a h => State.cursorsCoherent_reachStages a h) _ hs

theorem State.cursorsCoherent_settle {s : State} (hs : s.cursorsCoherent) : s.settle.cursorsCoherent :=
  State.settle_keeps (P := State.cursorsCoherent)
    (fun _ a k h _ _ => State.cursorsCoherent_takeStage a k h) (fun _ h => h) hs

theorem State.cursorsCoherent_acceptChange {s : State} (c : Change) (strict : Bool)
    (hs : s.cursorsCoherent) : (s.acceptChange c strict).1.cursorsCoherent := by
  rcases s.acceptChange_cases c strict with h | ⟨-, -, -, -, -, h⟩ | ⟨-, -, -, -, -, h⟩ <;> rw [h]
  · exact hs
  · rw [State.join_eq]
    exact State.cursorsCoherent_proceed (State.cursorsCoherent_reachStages (s := s.joined c) _ hs)
  · exact hs

/-- The context a cursor command leaves is coherent. -/
theorem State.pathMove_coherent {s : State} {n : Fin 16} {c : Cursor} (hs : s.cursorsCoherent)
    (h : s.pathMove n c) : c.coherent := by
  rw [State.cursorsCoherent_iff] at hs
  rcases h with rfl | ⟨hn, rfl⟩ | ⟨r, context, clearance, a, p, -, rfl⟩ |
    ⟨hn, hd, hr, p, clearance, rfl⟩
  · exact Cursor.closed_coherent
  · have raised : ({ s.cursors.get n with
        sequence := (s.cursors.get n).sequence + 1#16 } : Cursor).coherent :=
      Cursor.coherent_of_fields (hs n) hn ⟨rfl, rfl, rfl, rfl⟩
    exact Cursor.fetched_coherent raised hn _ _ _
  · obtain ⟨bl, -, bp⟩ := buildPath_path (s.view clearance) a p
    exact Cursor.placed_coherent _ _ bl bp
  · have stop : (buildPath (s.view clearance) (s.cursors.get n).top p).stop =
        some (.fault .missingTarget) := by
      have : findRecord (s.view clearance).records (s.cursors.get n).top = none := hr
      simp [buildPath, this, Walk.faulted]
    rcases Cursor.landed_cases ((s.cursors.get n).sought p)
        (buildPath (s.view clearance) (s.cursors.get n).top p) with
      ⟨hw, -⟩ | ⟨code, hw, e⟩ | ⟨hw, -⟩
    · simp [hw] at stop
    · rw [e]; simp [Cursor.coherent]
    · simp [hw] at stop

theorem State.install_cursors_of_ne {s : State} {c : Change} (h : c.kind ≠ .clearHoldings) :
    (s.install c).cursors =
      s.cursors.map fun x => x.clampedTo c.accession (c.applyRecords s.store.records) := by
  rw [State.install_of_ne h]; rfl

theorem State.install_cursors_clear (s : State) : (s.install .clearHoldings).cursors =
    s.cursors.map fun c => if c.namesRemoved (Change.clearHoldings.applyRecords s.store.records) then
      c.faultedWith .missingTarget else c := by
  rw [State.install, State.dropRemoved_eq]; rfl

@[simp] theorem State.releaseEntry_cursors (s : State) (f : InFlight) :
    (s.releaseEntry f).cursors = s.cursors := by
  rcases s.releaseEntry_cases f with ⟨-, h⟩ | ⟨-, h⟩ <;> simp [h]

@[simp] theorem State.completed_cursors (s : State) (f : InFlight) :
    (s.completed f).cursors = (s.install f.change).cursors := by
  simp [State.completed]

@[simp] theorem State.storeFaulted_cursors (s : State) (f : InFlight) :
    (s.storeFaulted f).cursors = s.cursors := by
  simp [State.storeFaulted, State.returned]

theorem State.cursorsCoherent_completed {s : State} (f : InFlight) (hs : s.cursorsCoherent) :
    (s.completed f).cursorsCoherent := by
  by_cases hk : f.change.kind = .clearHoldings
  · have hc : f.change = .clearHoldings := by cases h : f.change <;> simp_all [Change.kind]
    refine State.cursorsCoherent_map (by rw [State.completed_cursors, hc, State.install_cursors_clear])
      (fun c h => ?_) hs
    split
    · exact Cursor.faultedWith_coherent c _
    · exact h
  · exact State.cursorsCoherent_map (by rw [State.completed_cursors, State.install_cursors_of_ne hk])
      (fun c h => Cursor.clampedTo_coherent h _ _) hs

theorem State.cursorsCoherent_startUp (pending : List Instr) (selectLow : Bool) (store : Store) (k : Nat) :
    (State.startUp pending selectLow store k).cursorsCoherent := by
  rw [State.cursorsCoherent_iff]
  intro n
  simp [State.startUp]

theorem State.cursorsCoherent_tick {s : State} (hs : s.cursorsCoherent) : s.tick.cursorsCoherent :=
  State.tick_keeps (P := State.cursorsCoherent)
    (fun s v i => State.cursorsCoherent_congr (s.sameCore_expire v i).2.2.2.1)
    (fun s => State.cursorsCoherent_congr s.count_cursors)
    (fun _ => State.cursorsCoherent_reachAllStages) (fun _ => State.cursorsCoherent_proceed) hs

/-- Every core move keeps every cursor coherent. -/
theorem State.cursorsCoherent_coreMove {s u : State} (hs : s.cursorsCoherent) (h : s.coreMove u) :
    u.cursorsCoherent := by
  rcases h with rfl | ⟨-, c, strict, rfl⟩ | ⟨-, n, c, m, r, hp, rfl⟩ | ⟨-, n, loop, hn, rfl⟩ |
    ⟨-, a, rfl⟩ | ⟨-, frozen, settings, rfl⟩ | rfl | ⟨a, rfl⟩ | ⟨f, -, rfl⟩ | ⟨f, -, rfl⟩ |
    ⟨pending, selectLow, k, mark, rfl⟩ | ⟨pending, selectLow, k, rfl⟩ | ⟨-, rfl⟩ | h
  · exact hs
  · exact State.cursorsCoherent_acceptChange c strict hs
  · refine State.cursorsCoherent_proceed (State.cursorsCoherent_settle (State.cursorsCoherent_congr
      (s := s.setCursor n c) rfl ?_))
    exact State.cursorsCoherent_setCursor (State.pathMove_coherent hs hp) hs
  · exact State.cursorsCoherent_setCursor (Cursor.coherent_of_fields
      (State.cursorsCoherent_iff.1 hs n) hn ⟨rfl, rfl, rfl, rfl⟩) hs
  · exact hs
  · exact State.cursorsCoherent_proceed (State.cursorsCoherent_reachAllStages
      (State.cursorsCoherent_congr (s := s) rfl hs))
  · exact State.cursorsCoherent_proceed hs
  · exact State.cursorsCoherent_proceed (State.cursorsCoherent_reachStages a hs)
  · rw [State.complete_eq]
    exact State.afterCompletion_keeps (fun _ => State.cursorsCoherent_startUp _ _ _ _)
      State.cursorsCoherent_proceed (State.cursorsCoherent_completed f hs)
  · rw [State.failStore_eq]
    exact State.afterCompletion_keeps (fun _ => State.cursorsCoherent_startUp _ _ _ _)
      State.cursorsCoherent_proceed (State.cursorsCoherent_congr (State.storeFaulted_cursors s f) hs)
  · exact State.cursorsCoherent_startUp _ _ _ _
  · exact State.cursorsCoherent_startUp _ _ _ _
  · exact hs
  · rw [h]
    exact State.cursorsCoherent_tick hs

/-- Settles O55: the cursors are part of the core of the state, and every core move keeps them coherent. -/
theorem cursorInvariant : Obligations.CursorInvariant := fun _ _ hs ht =>
  step_keeps_of_core (fun h => State.cursorsCoherent_congr h.2.2.2.1) State.cursorsCoherent_coreMove hs ht

end Sys2Proof.Machine
end

section
/-! SUPPORT. What every command does to the whole state, said once as the list of operations that a property
must survive (`Kept`), with what the command has checked by then. An invariant proves the list; every step
then keeps it. -/

namespace Sys2Proof.Machine

/-! ### What a command has checked -/

/-- The segments of a change command are as many as its count announces (R31, R32). -/
def Change.framed : Change → Prop
  | .writeItem h segments => segments.length = expectedSegments h.segmentCount
  | .amendSegments _ _ _ m run => 1 ≤ m → m ≤ 64 → run.length = m
  | _ => True

/-- A change that a command asks for: framed, and for STORE SETTINGS the snapshot of the live settings
(R142). -/
def State.asks (s : State) (c : Change) : Prop :=
  c.framed ∧ ∀ st, c = .storeSettings st → st = s.settings

/-- The new context that OPEN CURSOR, SEEK, FETCH or CLOSE CURSOR leaves (R84 to R90, R104). -/
def State.cursorMove (s : State) (n : Fin 16) (c : Cursor) : Prop :=
  c = Cursor.closed ∨
  ((s.cursors.get n).state ≠ .closed ∧ c = (({ s.cursors.get n with
      sequence := (s.cursors.get n).sequence + 1#16 } : Cursor).fetched
    (s.view (s.cursors.get n).clearance) s.volumes n).cursor) ∨
  (∃ r context, s.record? context.top = some r ∧ context.position ≤ r.duration ∧
    (context.loop = none ∨ context.loop = (s.cursors.get n).loop ∧ (s.cursors.get n).state ≠ .closed) ∧
    c = Cursor.placed context
      (buildPath (s.view context.clearance) context.top context.position) r.duration) ∨
  ((s.cursors.get n).state ≠ .closed ∧ (s.cursors.get n).state ≠ .detached ∧
    s.record? (s.cursors.get n).top = none ∧ ∃ p, c = ((s.cursors.get n).sought p).landed
      (buildPath (s.view (s.cursors.get n).clearance) (s.cursors.get n).top p))

theorem State.cursorMove.pathMove {s : State} {n : Fin 16} {c : Cursor} (h : s.cursorMove n c) :
    s.pathMove n c := by
  rcases h with h | h | ⟨r, context, hr, -, -, e⟩ | ⟨hn, hd, hr, p, e⟩
  · exact .inl h
  · exact .inr (.inl h)
  · exact .inr (.inr (.inl ⟨r, context, _, _, _, hr, e⟩))
  · exact .inr (.inr (.inr ⟨hn, hd, hr, p, _, e⟩))

/-- A loop region of at least 10,000 microseconds, or none (R59). -/
def loopLongEnough (loop : Option LoopRegion) : Prop :=
  ∀ l, loop = some l → l.start + Config.minSpan ≤ l.stop

/-- The move that one of the five volume commands makes on a registered volume (R114 to R123). -/
def State.commandsMove (s : State) (v : Fin 64) (m : VolumeMove) : Prop :=
  (s.volumes.get v).health ≠ .unregistered ∧
    (reportFaultMove s.settings v (s.volumes.get v) = some m ∨
      (∃ good, probeResultMove s.settings good v (s.volumes.get v) = some m) ∨
      probeVolumeMove s.settings (s.volumes.get v) = some m ∨
      m = .quiet ((s.volumes.get v).fail s.settings) ∨ m = .quiet Volume.clean)

/-- The operations that every command but a completion with DONE is made of, each keeping `P`. -/
structure Kept (P : State → Prop) : Prop where
  pending : ∀ s x, P s → P (s.withPending x)
  pins : ∀ s x, P s → P (s.withPins x)
  link : ∀ s x, P s → P (s.withLink x)
  condition : ∀ s x, P s → P (s.withResolution x)
  resetPending : ∀ s, P s → s.committing = true → P (s.withResetPending true)
  change : ∀ s c strict, P s → s.ready → s.asks c → P (s.acceptChange c strict).1
  pathWork : ∀ s n c m r, P s → s.ready → s.cursorMove n c →
    (s.latchSettled → (s.withNotices m).latchSettled) → P (s.afterPathWork n c m r)
  loop : ∀ s n loop, P s → s.ready → (s.cursors.get n).state ≠ .closed → loopLongEnough loop →
    P (s.setCursor n { s.cursors.get n with loop := loop })
  cancel : ∀ s e, P s → s.ready → s.entry? e.accession = some e → e.state ≠ .committing →
    P (s.removeEntry e.accession)
  freeze : ∀ s, P s → s.ready → s.committing = false →
    P (s.withEngine { s.engine with frozen := true })
  thaw : ∀ s, P s → s.ready → s.engine.frozen = true →
    P ((s.withEngine { s.engine with frozen := false }).reachAllStages).proceed
  volume : ∀ s v m, P s → s.ready → s.commandsMove v m → P (s.moveVolume v m)
  expire : ∀ s v i, P s → P (s.expire v i)
  arm : ∀ s, P s → s.ready → P s.armNotices.1
  takeNotices : ∀ s, P s → s.ready → P s.takeNotices.1
  enable : ∀ s setMask clearMask, P s → s.ready → P (s.enableNotices setMask clearMask).1
  setting : ∀ s name v x, P s → s.ready → name.admits x = true →
    P ((s.withSettings (s.settings.write v x name)).settingActs name v)
  hardReset : ∀ s mark, P s → P (s.hardReset mark)
  restart : ∀ s selectLow, P s → P (State.startUp s.pending selectLow s.store s.openValues)
  scan : ∀ s, P s → s.starting = true → P s.scanComplete
  fail : ∀ s f, P s → s.engine.inFlight = some f → P (s.failStore f)
  proceed : ∀ s, P s → P s.proceed
  tick : ∀ s, P s → P s.tick
  stage : ∀ s a, P s → P (s.reachStages a).proceed

/-! ### The cursor commands, with what they have checked -/

theorem placeTarget_position {strict : Bool} {target : Int} {duration : Nat} {pl : Placing}
    (h : placeTarget strict target duration = .ok pl) : pl.position ≤ duration := by
  unfold placeTarget at h
  split_ifs at h <;> cases h <;> dsimp only <;> omega

theorem placeLoop_longEnough {strict : Bool} {start length duration : Nat} {pl : LoopPlacing}
    (h : placeLoop strict start length duration = .ok pl) :
    pl.region.start + Config.minSpan ≤ pl.region.stop := by
  simp only [placeLoop, Config.minSpan] at h ⊢
  split_ifs at h <;> cases h <;> dsimp only <;> omega

/-- OPEN CURSOR changes nothing, notes a condition, or opens the cursor within its item (R84, R85). -/
theorem State.openCursor_moves (s : State) (form : Byte) (a position chunk clearance : Nat)
    (preference : CopyPreference) (trim : Int) (n : Fin 16) :
    let t := (s.openCursor form a position chunk clearance preference trim n).1
    t = s ∨ (∃ k f, t = s.noteCondition form k f) ∨
    ∃ c m r, s.cursorMove n c ∧ t = s.afterPathWork n c m r ∧
      (s.latchSettled → (s.withNotices m).latchSettled) := by
  unfold State.openCursor
  dsimp only
  split
  · exact .inl rfl
  · cases hr : s.record? a with
    | none => exact .inl rfl
    | some r =>
      dsimp only
      split
      · exact .inl rfl
      · split
        · exact .inl rfl
        · cases hp : placeTarget (strictForm form) position r.duration with
          | error c => exact .inr (.inl ⟨_, _, rfl⟩)
          | ok pl =>
            obtain ⟨m, res, h, hl⟩ := s.pathWork_eq n ((openedContext a pl.position
              (if chunk = 0 then s.settings.defaultChunk else chunk) clearance preference trim).placed
              (buildPath (s.view clearance) a pl.position) r.duration)
              (buildPath (s.view clearance) a pl.position).stop form pl.condition
              (Sticky.ofPosition pl.clamped)
            exact .inr (.inr ⟨_, m, res, .inr (.inr (.inl ⟨r, openedContext a pl.position _ clearance
              preference trim, hr, placeTarget_position hp, .inl rfl, rfl⟩)), h, hl⟩)

/-- SEEK changes nothing, notes a condition, or places the cursor anew within its item, or faults it where
no record stands (R86, R87). -/
theorem State.seek_moves (s : State) (form kind : Byte) (value : BitVec 40) (n : Fin 16) :
    let t := (s.seek form kind value n).1
    t = s ∨ (∃ k f, t = s.noteCondition form k f) ∨
    ∃ c m r, s.cursorMove n c ∧ t = s.afterPathWork n c m r ∧
      (s.latchSettled → (s.withNotices m).latchSettled) := by
  unfold State.seek
  dsimp only
  split
  · exact .inl rfl
  · rename_i hcl
    rw [not_or] at hcl
    cases hr : s.record? (s.cursors.get n).top with
    | none =>
      obtain ⟨m, res, h, hl⟩ := s.pathWork_eq n (((s.cursors.get n).sought (s.cursors.get n).position).landed
        (buildPath (s.view (s.cursors.get n).clearance) (s.cursors.get n).top (s.cursors.get n).position))
        (buildPath (s.view (s.cursors.get n).clearance) (s.cursors.get n).top
          (s.cursors.get n).position).stop form .none Sticky.none
      exact .inr (.inr ⟨_, m, res, .inr (.inr (.inr ⟨hcl.1, hcl.2, hr, _, rfl⟩)), h, hl⟩)
    | some r =>
      dsimp only
      cases hp : placeTarget (strictForm form) ((seekTarget kind value (s.cursors.get n).position).getD 0)
          r.duration with
      | error side => exact .inr (.inl ⟨_, _, rfl⟩)
      | ok pl =>
        obtain ⟨m, res, h, hl⟩ := s.pathWork_eq n (((s.cursors.get n).sought pl.position).placed
          (buildPath (s.view (s.cursors.get n).clearance) (s.cursors.get n).top pl.position) r.duration)
          (buildPath (s.view (s.cursors.get n).clearance) (s.cursors.get n).top pl.position).stop form
          pl.condition (Sticky.ofPosition pl.clamped)
        exact .inr (.inr ⟨_, m, res, .inr (.inr (.inl ⟨r, (s.cursors.get n).sought pl.position, hr,
          placeTarget_position hp, .inr ⟨rfl, hcl.1⟩, rfl⟩)), h, hl⟩)

/-- SET LOOP changes nothing, notes a condition, or sets a region that is long enough (R59, R88). -/
theorem State.setLoop_moves (s : State) (form : Byte) (start length : Nat) (n : Fin 16) :
    let t := (s.setLoop form start length n).1
    t = s ∨ (∃ k f, t = s.noteCondition form k f) ∨
    ∃ loop k f, (s.cursors.get n).state ≠ .closed ∧ loopLongEnough loop ∧
      t = (s.setCursor n { s.cursors.get n with loop := loop }).noteCondition form k f := by
  unfold State.setLoop
  dsimp only
  split
  · exact .inl rfl
  · rename_i hcl
    rw [not_or] at hcl
    cases s.record? (s.cursors.get n).top with
    | none => exact .inl rfl
    | some r =>
      dsimp only
      cases hp : placeLoop (strictForm form) start length r.duration with
      | error side => exact .inr (.inl ⟨_, _, rfl⟩)
      | ok pl =>
        refine .inr (.inr ⟨some pl.region, _, _, hcl.1, fun l hl => ?_, rfl⟩)
        cases hl
        exact placeLoop_longEnough hp

/-! ### The change commands' frames -/

theorem Change.framed_write (header : WireHeader) {segments : List WireSegment}
    (h : ¬segments.length < expectedSegments header.segmentCount) :
    (Change.writeItem header (segments.take (expectedSegments header.segmentCount))).framed := by
  simp only [Change.framed, List.length_take]
  omega

theorem Change.framed_amend (a first k : Nat) {count : Byte} {run : List WireSegment}
    (h : ¬run.length < expectedSegments count) :
    (Change.amendSegments a first k count.toNat (run.take (expectedSegments count))).framed := by
  intro h1 h2
  have : expectedSegments count = count.toNat := by simp [expectedSegments, h1, h2]
  simp only [List.length_take]
  omega

/-! ### The rule -/

namespace Kept

variable {P : State → Prop} {s : State}

theorem respond (h : Kept P) (hs : P s) (i : Instr) (r : Response) : P (s.respond i r) :=
  h.link _ _ hs

theorem noteCondition (h : Kept P) (hs : P s) (form : Byte) (c : Condition) (f : Sticky) :
    P (s.noteCondition form c f) := by
  rw [State.noteCondition_eq]
  exact h.condition _ _ hs

theorem linkCommand (h : Kept P) (hs : P s) {i : Instr} {readiness : State → Option Response}
    {effect : State → State × Response} (he : readiness s = none → s.takesCommand = true →
      P (effect s).1) : P (linkCommand i readiness effect s) := by
  rcases linkCommand_cases i readiness effect s with ⟨-, e⟩ | ⟨-, _, -, e⟩ | ⟨ht, hr, e⟩ <;> rw [e]
  · exact hs
  · exact h.respond hs _ _
  · exact h.respond (he hr ht) _ _

theorem hostCommand (h : Kept P) (hs : P s) {i : Instr} {effect : State → State × Response}
    (he : s.ready → P (effect s).1) : P (hostCommand i effect s) :=
  hostCommand_keeps hs (fun _ r ht => h.respond ht i r) he

theorem hostQuery (h : Kept P) (hs : P s) (i : Instr) (answer : State → Response) :
    P (hostQuery i answer s) :=
  h.hostCommand hs fun _ => hs

theorem onCursor (hs : P s) {cursor : Byte} {inRange : Bool}
    {body : Fin 16 → State → State × Response} (hb : ∀ n, P (body n s).1) :
    P (onCursor cursor inRange body s).1 := by
  rcases onCursor_fst cursor inRange body s with e | ⟨n, -, e⟩ <;> rw [e]
  · exact hs
  · exact hb n

theorem volumeCommand (h : Kept P) (hs : P s) (hr : s.ready) {volume : Byte} {inRange : Bool}
    {move : Fin 64 → Volume → Option VolumeMove}
    (hm : ∀ v m, (s.volumes.get v).health ≠ .unregistered → move v (s.volumes.get v) = some m →
      s.commandsMove v m) : P (s.volumeCommand volume inRange move).1 := by
  rcases s.volumeCommand_cases volume inRange move with e | ⟨v, m, -, hu, he, e⟩ <;> rw [e]
  · exact hs
  · exact h.volume _ _ _ hs hr (hm v m hu he)

/-- The end of a frame, with the soft reset it may bring (R183, R192). -/
theorem endFrame (h : Kept P) (hs : P s) (sampled : List Lanes) : P (s.endFrame sampled) := by
  have closed := h.link _ (s.linkAfterFrame sampled) (h.pins s { s.pins with selectLow := false } hs)
  unfold State.endFrame
  dsimp only
  split
  · split
    · exact h.resetPending _ closed ‹_›
    · exact h.restart _ _ closed
  · exact closed

/-- Every command keeps what its operations keep, given that a completion with DONE does. -/
theorem command (h : Kept P) {i : Instr} {t : State} (hs : P s)
    (done : ∀ f, s.engine.inFlight = some f → P (s.complete f)) (ht : exec i s = .next t) : P t := by
  have change : ∀ (i : Instr) c strict, (∀ st, c ≠ .storeSettings st) → c.framed →
      P (Machine.hostCommand i (fun s => s.acceptChange c strict) s) := fun i c strict hc hf =>
    h.hostCommand hs fun hr => h.change _ _ _ hs hr ⟨hf, fun st e => absurd e (hc st)⟩
  cases i <;> simp only [exec] at ht
  case readItem | readSegments | enumerate | findCarrier | readPending | readVolumes | readSetting =>
    cases ht
    exact h.hostQuery hs _ _
  case locate form a position clearance =>
    cases ht
    refine h.hostCommand hs fun _ => ?_
    rcases s.locate_fst form a.toNat position clearance with e | ⟨c, f, e⟩ <;> rw [e]
    · exact hs
    · exact h.noteCondition hs _ _ _
  case writeItem form header segments =>
    simp only [execWriteItem] at ht
    split_ifs at ht <;> cases ht
    · exact h.link _ _ hs
    · exact hs
    · exact change _ _ _ (by simp) (Change.framed_write header ‹_›)
  case amendSegments form a first k m run =>
    simp only [execAmendSegments] at ht
    split_ifs at ht <;> cases ht
    · exact h.link _ _ hs
    · exact hs
    · exact change _ _ _ (by simp) (Change.framed_amend _ _ _ ‹_›)
  case setItemFields | certifyItem | retireItem | purgeItem | clearHoldings =>
    cases ht
    exact change _ _ _ (by simp) trivial
  case storeSettings =>
    cases ht
    refine h.hostCommand hs fun hr => h.change _ _ _ hs hr ⟨trivial, fun st e => ?_⟩
    cases e; rfl
  case cancelPending form a =>
    cases ht
    refine h.hostCommand hs fun hr => ?_
    unfold State.cancelPending
    split
    · exact hs
    · rename_i e he
      have ha : e.accession = a.toNat := by simpa using List.find?_some he
      split
      · exact hs
      · rw [← ha] at he ⊢
        exact h.cancel _ _ hs hr he ‹_›
  case freeze =>
    cases ht
    refine h.linkCommand hs fun hr hc => ?_
    have ready : s.ready := by
      unfold freezeReadiness at hr
      split_ifs at hr
      exact ⟨hc, by simpa using ‹¬s.starting = true›, by simpa using ‹¬s.resetPending = true›⟩
    unfold State.freeze
    split
    · exact hs
    · exact h.freeze _ hs ready (by simpa using ‹¬s.committing = true›)
  case thaw =>
    cases ht
    refine h.hostCommand hs fun hr => ?_
    unfold State.thaw
    split
    · exact h.thaw _ hs hr ‹_›
    · exact hs
  case openCursor form cursor a position chunk clearance preference trim =>
    cases ht
    refine h.hostCommand hs fun hr => onCursor hs fun n => ?_
    rcases s.openCursor_moves form a.toNat position.toNat chunk.toNat clearance.toNat
      ((CopyPreference.ofByte preference).getD .primaryFirst) trim.toInt n with
      e | ⟨k, f, e⟩ | ⟨c, m, r, hm, e, hl⟩ <;> rw [e]
    · exact hs
    · exact h.noteCondition hs _ _ _
    · exact h.pathWork _ _ _ _ _ hs hr hm hl
  case seek form cursor kind value =>
    cases ht
    refine h.hostCommand hs fun hr => onCursor hs fun n => ?_
    rcases s.seek_moves form kind value n with e | ⟨k, f, e⟩ | ⟨c, m, r, hm, e, hl⟩ <;> rw [e]
    · exact hs
    · exact h.noteCondition hs _ _ _
    · exact h.pathWork _ _ _ _ _ hs hr hm hl
  case setLoop form cursor start length =>
    cases ht
    refine h.hostCommand hs fun hr => onCursor hs fun n => ?_
    rcases s.setLoop_moves form start.toNat length.toNat n with
      e | ⟨k, f, e⟩ | ⟨loop, k, f, hc, hl, e⟩ <;> rw [e]
    · exact hs
    · exact h.noteCondition hs _ _ _
    · exact h.noteCondition (h.loop _ _ _ hs hr hc hl) _ _ _
  case clearLoop form cursor =>
    cases ht
    refine h.hostCommand hs fun hr => onCursor hs fun n => ?_
    rcases s.clearLoop_cases n with e | ⟨hc, -, e⟩ <;> rw [e]
    · exact hs
    · exact h.loop _ _ _ hs hr hc (by simp [loopLongEnough])
  case fetch form cursor =>
    cases ht
    refine h.hostCommand hs fun hr => onCursor hs fun n => ?_
    rcases s.fetch_cases form n with ⟨-, e⟩ | ⟨m, res, hc, e, hl⟩ <;> rw [e]
    · exact hs
    · exact h.pathWork _ _ _ _ _ hs hr (.inr (.inl ⟨hc, rfl⟩)) hl
  case closeCursor form cursor =>
    cases ht
    refine h.hostCommand hs fun hr => onCursor hs fun n => ?_
    rcases s.closeCursor_cases n with ⟨-, e⟩ | ⟨-, e⟩ <;> rw [e]
    · exact hs
    · exact h.pathWork _ _ _ _ _ hs hr (.inl rfl) id
  case readCursor =>
    cases ht
    exact h.hostCommand hs fun _ => onCursor hs fun _ => hs
  case reportFault =>
    cases ht
    exact h.hostCommand hs fun hr => h.volumeCommand hs hr fun v m hu hm => ⟨hu, .inl hm⟩
  case probeResult =>
    cases ht
    exact h.hostCommand hs fun hr => h.volumeCommand hs hr fun v m hu hm => ⟨hu, .inr (.inl ⟨_, hm⟩)⟩
  case probeVolume =>
    cases ht
    exact h.hostCommand hs fun hr => h.volumeCommand hs hr fun v m hu hm =>
      ⟨hu, .inr (.inr (.inl hm))⟩
  case failVolume =>
    cases ht
    exact h.hostCommand hs fun hr => h.volumeCommand hs hr fun v m hu hm =>
      ⟨hu, .inr (.inr (.inr (.inl (Option.some.inj hm).symm)))⟩
  case restoreVolume =>
    cases ht
    exact h.hostCommand hs fun hr => h.volumeCommand hs hr fun v m hu hm =>
      ⟨hu, .inr (.inr (.inr (.inr (Option.some.inj hm).symm)))⟩
  case armNotices => cases ht; exact h.hostCommand hs fun hr => h.arm _ hs hr
  case takeNotices => cases ht; exact h.hostCommand hs fun hr => h.takeNotices _ hs hr
  case enableNotices => cases ht; exact h.hostCommand hs fun hr => h.enable _ _ _ hs hr
  case setSetting form number volume value =>
    cases ht
    refine h.hostCommand hs fun hr => ?_
    rcases s.setSetting_cases number volume value with e | ⟨name, v, -, ha, e⟩ <;> rw [e]
    · exact hs
    · exact h.setting _ _ _ _ hs hr ha
  case readStatus form =>
    cases ht
    split
    · unfold State.repeatStatus
      split
      · exact hs
      · exact h.link _ _ hs
    · exact h.linkCommand hs fun _ _ => hs
  case readIdentity => cases ht; exact h.linkCommand hs fun _ _ => hs
  case clearCondition => cases ht; exact h.hostCommand hs fun _ => h.condition _ _ hs
  case reset =>
    cases ht
    refine h.hostCommand hs fun _ => ?_
    simp only [State.orderReset]
    split
    · exact h.resetPending _ hs ‹_›
    · exact h.link _ _ hs
  case unknownCommand =>
    cases ht
    split
    · exact hs
    · exact h.linkCommand hs fun _ _ => hs
  case frameOpen =>
    cases ht
    split
    · exact hs
    · simp only [State.openFrame]
      split
      · exact h.pins _ _ hs
      · exact h.link _ _ (h.pins _ _ hs)
  case frameEnd sampled =>
    cases ht
    split
    · exact h.endFrame hs sampled
    · exact hs
  case hardReset mark => cases ht; exact h.hardReset _ _ hs
  case resetNRelease =>
    cases ht
    split
    · exact h.restart _ _ hs
    · exact hs
  case scanComplete =>
    cases ht
    split
    · rename_i hst
      simp only [Bool.and_eq_true] at hst
      exact h.scan _ hs hst.1
    · exact hs
  case commitComplete =>
    cases ht
    split
    · exact hs
    · exact done _ ‹_›
  case commitStoreFault =>
    cases ht
    split
    · exact hs
    · exact h.fail _ _ hs ‹_›
  case takeReadyEntry => cases ht; exact h.proceed _ hs
  case timeBaseTick =>
    cases ht
    split
    · exact hs
    · exact h.tick _ hs
  case tfwinExpiry | tpwaitExpiry | tptoExpiry | tstableExpiry => cases ht; exact h.expire _ _ _ hs
  case stageReached => cases ht; exact h.stage _ _ hs

/-- Every step keeps what the operations and a completion with DONE keep. -/
theorem step (h : Kept P) (done : ∀ s f, P s → s.engine.inFlight = some f → P (s.complete f)) {t : State}
    (hs : P s) (ht : step s = .next t) : P t :=
  step_keeps h.pending (fun _ _ _ hs he => h.command hs (fun f hf => done _ f hs hf) he) hs ht

end Kept

end Sys2Proof.Machine
end

section
/-! SUPPORT. The line latch: no operation of the part leaves it low with ARMED set and an enabled kind
pending (R197, R200). -/

namespace Sys2Proof.Machine

/-! ### The latch settled by each operation -/

theorem State.latchSettled_of_disarmed {s : State} (h : s.notices.armed = false) : s.latchSettled := by
  simp [State.latchSettled, h]

theorem State.latchSettled_raise (s : State) (x : Notice) : (s.raise x).latchSettled :=
  Notices.testLatch_settled _ _

theorem State.latchSettled_testLatch (s : State) : s.testLatch.latchSettled :=
  Notices.testLatch_settled _ _

theorem State.latchSettled_startUp (pending : List Instr) (selectLow : Bool) (store : Store) (k : Nat) :
    (State.startUp pending selectLow store k).latchSettled :=
  State.latchSettled_of_disarmed rfl

namespace State.latchSettled

variable {s : State}

theorem takeStage (h : s.latchSettled) (a k : Nat) : (s.takeStage a k).latchSettled := by
  obtain ⟨m, f, e, hm, -⟩ := s.takeStage_eq a k
  rw [e]
  exact hm h

theorem settleCounts (h : s.latchSettled) : s.settleCounts.latchSettled := h

theorem proceed (h : s.latchSettled) : s.proceed.latchSettled :=
  State.proceed_keeps (P := State.latchSettled) (fun _ _ _ _ _ _ _ => State.latchSettled_raise _ _)
    (fun _ _ h _ _ _ => h) h

theorem reachStages (h : s.latchSettled) (a : Nat) : (s.reachStages a).latchSettled :=
  State.reachStages_keeps (fun _ _ _ h _ _ => h.takeStage _ _) (fun _ h => h.settleCounts) a h

theorem reachAllStages (h : s.latchSettled) : s.reachAllStages.latchSettled :=
  State.reachAllStages_keeps (fun _ _ _ h _ _ => h.takeStage _ _) (fun _ h => h.settleCounts) h

theorem settle (h : s.latchSettled) : s.settle.latchSettled :=
  State.settle_keeps (fun _ _ _ h _ _ => h.takeStage _ _) (fun _ h => h.settleCounts) h

theorem acceptChange (h : s.latchSettled) (c : Change) (strict : Bool) :
    (s.acceptChange c strict).1.latchSettled := by
  rcases s.acceptChange_cases c strict with e | ⟨-, -, -, -, -, e⟩ | ⟨-, -, -, -, -, e⟩ <;> rw [e]
  · exact h
  · rw [State.join_eq]
    exact (State.latchSettled.reachStages (s := s.joined c) h _).proceed
  · exact h

theorem moveVolume (h : s.latchSettled) (v : Fin 64) (m : VolumeMove) :
    (s.moveVolume v m).latchSettled := by
  unfold State.moveVolume
  cases m.notice with
  | none => exact h
  | some x => exact State.latchSettled_raise _ _

theorem expire (h : s.latchSettled) (v : Fin 64) (i : Interval) : (s.expire v i).latchSettled := by
  rcases s.expire_cases v i with e | ⟨-, e⟩ <;> rw [e]
  · exact h
  · exact h.moveVolume _ _

/-- A changed setting leaves the latch settled: of all settings only the notice enables govern it, and
they are followed by the latch test (R197, R205). -/
theorem setting (h : s.latchSettled) (name : SettingName) (v : Fin 64) (x : Nat) :
    ((s.withSettings (s.settings.write v x name)).settingActs name v).latchSettled := by
  have written : (s.settings.write v x name).noticeEnables = s.settings.noticeEnables →
      (s.withSettings (s.settings.write v x name)).latchSettled := fun e => by
    simpa only [State.latchSettled, State.withSettings_notices, State.withSettings_settings, e] using h
  cases name
  case noticeEnables => exact State.latchSettled_testLatch _
  case tHold1 | tHold2 | tHold3 => exact (written rfl).reachAllStages.proceed
  all_goals exact written rfl

end State.latchSettled

/-- A completion, with DONE or with STORE_FAULT, ends in a raise, and what follows keeps the latch settled
(R144, R146). -/
theorem State.latchSettled_afterCompletion {s : State} (h : s.latchSettled) :
    s.afterCompletion.latchSettled := by
  rcases s.afterCompletion_cases with ⟨-, e⟩ | ⟨-, e⟩ <;> rw [e]
  · exact State.latchSettled_startUp _ _ _ _
  · exact h.proceed

theorem latchSettled_kept : Kept State.latchSettled where
  pending _ _ h := h
  pins _ _ h := h
  link _ _ h := h
  condition _ _ h := h
  resetPending _ h _ := h
  change _ _ _ h _ _ := h.acceptChange _ _
  pathWork s n c m r h _ _ hm :=
    (State.latchSettled.settle (s := ((s.setCursor n c).withNotices m).withResolution r) (hm h)).proceed
  loop _ _ _ h _ _ _ := h
  cancel _ _ h _ _ _ := h
  freeze _ h _ _ := h
  thaw s h _ _ := (State.latchSettled.reachAllStages
    (s := s.withEngine { s.engine with frozen := false }) h).proceed
  volume _ _ _ h _ _ := h.moveVolume _ _
  expire _ _ _ h := h.expire _ _
  arm _ _ _ := State.latchSettled_testLatch _
  takeNotices s _ _ := by
    rintro ⟨-, -, h⟩
    obtain ⟨k, -, hk⟩ := List.any_eq_true.1 h
    cases k <;> simp [State.takeNotices, Notices.isPending, Notices.afterReset] at hk
  enable _ _ _ _ _ := State.latchSettled_testLatch _
  setting _ _ _ _ h _ _ := h.setting _ _ _
  hardReset s _ _ := State.latchSettled_startUp s.pending false _ s.openValues
  restart _ _ _ := State.latchSettled_startUp _ _ _ _
  scan _ _ _ := State.latchSettled_raise _ _
  fail _ _ _ _ := State.latchSettled_afterCompletion (State.latchSettled_raise _ _)
  proceed _ h := h.proceed
  tick _ h := State.tick_keeps (fun _ _ _ h => h.expire _ _) (fun s h => by
    simpa [State.latchSettled] using h) (fun _ h => h.reachAllStages) (fun _ h => h.proceed) h
  stage _ a h := (h.reachStages a).proceed

/-- Settles O52: each operation leaves the latch alone, or tests it (`latchSettled_kept`). -/
theorem latchInvariant : Obligations.LatchInvariant := by
  intro s t hs ht
  exact latchSettled_kept.step (fun _ _ _ _ => State.latchSettled_afterCompletion
    (State.latchSettled_raise _ _)) hs ht

/-! ### READY entries -/

/-- The engine may take no entry while a commit is in flight, in a part held FROZEN, or with a soft reset
pending (R148, R162). -/
theorem State.readyTaken_of_not_mayTake {s : State} (h : s.mayTake = false) : s.readyTaken := by
  simp [State.readyTaken, h]

theorem State.readyTaken_of_empty {s : State} (h : s.queue = []) : s.readyTaken := by
  simp [State.readyTaken, State.readyCount, h]

/-- What decides `readyTaken`: whether the engine may take, and the entries' states. -/
theorem State.readyTaken_congr {s t : State} (hm : t.mayTake = true → s.mayTake = true)
    (hq : t.readyCount ≤ s.readyCount) (h : s.readyTaken) : t.readyTaken := fun ht => by
  have := h (hm ht)
  omega

theorem State.readyTaken_acceptChange {s : State} (h : s.readyTaken) (c : Change) (strict : Bool) :
    (s.acceptChange c strict).1.readyTaken := by
  rcases s.acceptChange_cases c strict with e | ⟨-, -, -, -, -, e⟩ | ⟨-, -, -, -, -, e⟩ <;> rw [e]
  · exact h
  · exact State.proceed_readyTaken _
  · exact State.readyTaken_of_not_mayTake (by simp [State.mayTake, State.startCommit, State.committing])

theorem State.readyTaken_afterCompletion (s : State) : s.afterCompletion.readyTaken := by
  rcases s.afterCompletion_cases with ⟨-, e⟩ | ⟨-, e⟩ <;> rw [e]
  · exact State.readyTaken_of_empty rfl
  · exact State.proceed_readyTaken _

theorem State.readyTaken_moveVolume {s : State} (h : s.readyTaken) (v : Fin 64) (m : VolumeMove) :
    (s.moveVolume v m).readyTaken := by
  obtain ⟨n, e, -⟩ := s.moveVolume_eq v m
  rw [e]
  exact h

theorem State.readyTaken_setting {s : State} (h : s.readyTaken) (name : SettingName) (v : Fin 64) (x : Nat) :
    ((s.withSettings (s.settings.write v x name)).settingActs name v).readyTaken := by
  cases name
  case tHold1 | tHold2 | tHold3 => exact State.proceed_readyTaken _
  all_goals exact h

theorem readyTaken_kept : Kept State.readyTaken where
  pending _ _ h := h
  pins _ _ h := h
  link _ _ h := h
  condition _ _ h := h
  resetPending _ _ _ := State.readyTaken_of_not_mayTake (by simp [State.mayTake])
  change _ _ _ h _ _ := State.readyTaken_acceptChange h _ _
  pathWork _ _ _ _ _ _ _ _ _ := State.proceed_readyTaken _
  loop _ _ _ h _ _ _ := h
  cancel s e h _ _ _ := State.readyTaken_congr (s := s) id (by
    simp only [State.readyCount, State.removeEntry_queue]
    exact List.Sublist.countP_le List.filter_sublist) h
  freeze _ _ _ _ := State.readyTaken_of_not_mayTake (by simp [State.mayTake])
  thaw _ _ _ _ := State.proceed_readyTaken _
  volume _ _ _ h _ _ := State.readyTaken_moveVolume h _ _
  expire s v i h := by
    rcases s.expire_cases v i with e | ⟨-, e⟩ <;> rw [e]
    · exact h
    · exact State.readyTaken_moveVolume h _ _
  arm _ h _ := h
  takeNotices _ h _ := h
  enable _ _ _ h _ := h
  setting _ _ _ _ h _ _ := State.readyTaken_setting h _ _ _
  hardReset _ _ _ := State.readyTaken_of_empty rfl
  restart _ _ _ := State.readyTaken_of_empty rfl
  scan _ h _ := h
  fail _ _ _ _ := State.readyTaken_afterCompletion _
  proceed _ _ := State.proceed_readyTaken _
  tick _ _ := State.proceed_readyTaken _
  stage _ _ _ := State.proceed_readyTaken _

/-! ### The queue's bounds -/

/-- What `queueBounded` reads of an entry. -/
def Entry.bounds (e : Entry) : Nat × Nat × Nat := (e.accession, e.stage, e.age)

/-- A queue of no other entries than before, but for their states, is as bounded. -/
theorem State.queueBounded_of_sublist {s t : State}
    (h : (t.queue.map Entry.bounds).Sublist (s.queue.map Entry.bounds)) (hs : s.queueBounded) :
    t.queueBounded := by
  obtain ⟨size, apart, bounded⟩ := hs
  refine ⟨?_, ?_, fun e he => ?_⟩
  · have := h.length_le
    simp only [List.length_map] at this
    omega
  · have := (h.map Prod.fst).nodup (by simpa [Function.comp_def, Entry.bounds] using apart)
    simpa [Function.comp_def, Entry.bounds] using this
  · obtain ⟨x, hx, e'⟩ := List.mem_map.1 (h.subset (List.mem_map_of_mem he))
    obtain ⟨-, hs, ha⟩ : x.accession = e.accession ∧ x.stage = e.stage ∧ x.age = e.age := by
      simpa [Entry.bounds] using e'
    exact hs ▸ ha ▸ bounded x hx

theorem State.queueBounded_of_bounds {s t : State}
    (h : t.queue.map Entry.bounds = s.queue.map Entry.bounds) (hs : s.queueBounded) : t.queueBounded :=
  State.queueBounded_of_sublist (h ▸ List.Sublist.refl _) hs

theorem State.queueBounded_of_empty {s : State} (h : s.queue = []) : s.queueBounded := by
  simp [State.queueBounded, h]

theorem map_bounds_modifyEntry (a : Nat) (x : EntryState) (q : List Entry) :
    (modifyEntry a (fun e => { e with state := x }) q).map Entry.bounds = q.map Entry.bounds := by
  simp only [modifyEntry, List.map_map]
  refine List.map_congr_left fun e _ => ?_
  by_cases h : e.accession = a <;> simp [h, Entry.bounds]

namespace State.queueBounded

variable {s : State}

theorem settleCounts (h : s.queueBounded) : s.settleCounts.queueBounded :=
  State.queueBounded_of_bounds (by simp [Function.comp_def, Entry.bounds]) h

theorem removeEntry (h : s.queueBounded) (a : Nat) : (s.removeEntry a).queueBounded :=
  State.queueBounded_of_sublist (List.filter_sublist.map _) h

theorem takeStage (h : s.queueBounded) (a k : Nat) (hk : k ≤ 3) : (s.takeStage a k).queueBounded := by
  obtain ⟨m, f, e, -⟩ := s.takeStage_eq a k
  obtain ⟨size, apart, bounded⟩ := h
  rw [e]
  refine ⟨by simpa using size, ?_, fun x hx => ?_⟩
  · simpa [modifyEntry_accessions (f := fun e : Entry => { e with stage := k }) (fun _ => rfl)] using apart
  · obtain ⟨y, hy, rfl⟩ := List.mem_map.1 (show x ∈ modifyEntry a (fun e => { e with stage := k }) s.queue
      from hx)
    have := bounded y hy
    by_cases hya : y.accession = a <;> simp only [hya, if_true, if_false]
    · exact ⟨hk, this.2⟩
    · exact this

theorem reachStages (h : s.queueBounded) (a : Nat) : (s.reachStages a).queueBounded :=
  State.reachStages_keeps (fun _ _ _ h _ hk => h.takeStage _ _ hk) (fun _ h => h.settleCounts) a h

theorem reachAllStages (h : s.queueBounded) : s.reachAllStages.queueBounded :=
  State.reachAllStages_keeps (fun _ _ _ h _ hk => h.takeStage _ _ hk) (fun _ h => h.settleCounts) h

theorem settle (h : s.queueBounded) : s.settle.queueBounded :=
  State.settle_keeps (fun _ _ _ h _ hk => h.takeStage _ _ hk) (fun _ h => h.settleCounts) h

theorem proceed (h : s.queueBounded) : s.proceed.queueBounded :=
  State.proceed_keeps (P := State.queueBounded)
    (fun t e o h _ _ _ => State.queueBounded_of_sublist (s := t)
      (by rw [State.lateFailure_queue]; exact List.filter_sublist.map _) h)
    (fun _ _ h _ _ _ => State.queueBounded_of_bounds (map_bounds_modifyEntry _ _ _) h) h

theorem count (h : s.queueBounded) : s.count.queueBounded := by
  obtain ⟨size, apart, bounded⟩ := h
  rw [State.queueBounded, State.count_queue]
  split
  · exact ⟨size, apart, bounded⟩
  · refine ⟨by simpa using size, by simpa [Function.comp_def] using apart, fun e he => ?_⟩
    obtain ⟨x, hx, rfl⟩ := List.mem_map.1 he
    have := bounded x hx
    unfold Entry.ticked
    split
    · exact ⟨this.1, Nat.min_le_right _ _⟩
    · exact this

theorem joined {c : Change} (h : s.queueBounded) (hc : ∀ e ∈ s.queue, e.accession ≠ c.accession)
    (room : s.queue.length < 8) : (s.joined c).queueBounded := by
  obtain ⟨-, apart, bounded⟩ := h
  refine ⟨by simp [State.joined]; omega, ?_, fun e he => ?_⟩
  · simp only [State.joined, State.withIndex_queue, State.withQueue_queue, List.map_append,
      List.nodup_append, List.map_cons, List.map_nil]
    refine ⟨apart, List.nodup_singleton _, fun x hx y hy => ?_⟩
    obtain ⟨e, he, rfl⟩ := List.mem_map.1 hx
    exact List.mem_singleton.1 hy ▸ hc e he
  · rcases List.mem_append.1 he with he | he
    · exact bounded e he
    · simp [List.mem_singleton.1 he]

theorem acceptChange (h : s.queueBounded) (c : Change) (strict : Bool) :
    (s.acceptChange c strict).1.queueBounded := by
  rcases s.acceptChange_cases c strict with e | ⟨checks, -, hd, -, room, e⟩ | ⟨-, -, -, -, -, e⟩ <;> rw [e]
  · exact h
  · obtain ⟨-, -, -, -, entry⟩ := checks
    rw [State.join_eq]
    exact ((h.joined (State.entryRefusal_eq_false (Change.namesItem_of_deferrable hd) entry)
      room).reachStages _).proceed
  · exact h

theorem moveVolume (h : s.queueBounded) (v : Fin 64) (m : VolumeMove) : (s.moveVolume v m).queueBounded := by
  obtain ⟨n, e, -⟩ := s.moveVolume_eq v m
  rw [e]
  exact h

theorem expire (h : s.queueBounded) (v : Fin 64) (i : Interval) : (s.expire v i).queueBounded := by
  rcases s.expire_cases v i with e | ⟨-, e⟩ <;> rw [e]
  · exact h
  · exact h.moveVolume _ _

theorem releaseEntry (h : s.queueBounded) (f : InFlight) : (s.releaseEntry f).queueBounded := by
  rcases s.releaseEntry_cases f with ⟨-, e⟩ | ⟨-, e⟩ <;> rw [e]
  · exact h
  · exact h.removeEntry _

theorem install (h : s.queueBounded) (c : Change) : (s.install c).queueBounded := by
  by_cases hc : c.kind = .clearHoldings
  · obtain rfl : c = .clearHoldings := by cases c <;> simp_all [Change.kind]
    simp only [State.install, State.dropRemoved_eq]
    exact State.queueBounded.settleCounts h
  · rw [State.install_of_ne hc]
    exact h

theorem afterCompletion (h : s.queueBounded) : s.afterCompletion.queueBounded :=
  State.afterCompletion_keeps (fun _ => State.queueBounded_of_empty rfl) (fun h => h.proceed) h

theorem complete (h : s.queueBounded) (f : InFlight) : (s.complete f).queueBounded := by
  rw [State.complete_eq]
  refine State.queueBounded.afterCompletion ?_
  have := State.queueBounded.releaseEntry
    (s := (s.install f.change).withEngine { s.engine with inFlight := none }) (h.install f.change) f
  simpa only [State.queueBounded, State.completed, State.raise_queue, State.noteCommit_queue] using this

theorem failStore (h : s.queueBounded) (f : InFlight) : (s.failStore f).queueBounded := by
  rw [State.failStore_eq]
  refine State.queueBounded.afterCompletion ?_
  have := State.queueBounded.releaseEntry (s := s.returned f) h f
  simpa only [State.queueBounded, State.storeFaulted, State.raise_queue, State.noteCommit_queue] using this

theorem setting (h : s.queueBounded) (name : SettingName) (v : Fin 64) (x : Nat) :
    ((s.withSettings (s.settings.write v x name)).settingActs name v).queueBounded := by
  cases name
  case tHold1 | tHold2 | tHold3 =>
    exact (State.queueBounded.reachAllStages (s := s.withSettings (s.settings.write v x _)) h).proceed
  all_goals exact h

end State.queueBounded

theorem queueBounded_kept : Kept State.queueBounded where
  pending _ _ h := h
  pins _ _ h := h
  link _ _ h := h
  condition _ _ h := h
  resetPending _ h _ := h
  change _ _ _ h _ _ := h.acceptChange _ _
  pathWork s n c m r h _ _ _ :=
    (State.queueBounded.settle (s := ((s.setCursor n c).withNotices m).withResolution r) h).proceed
  loop _ _ _ h _ _ _ := h
  cancel _ _ h _ _ _ := h.removeEntry _
  freeze _ h _ _ := h
  thaw s h _ _ := (State.queueBounded.reachAllStages
    (s := s.withEngine { s.engine with frozen := false }) h).proceed
  volume _ _ _ h _ _ := h.moveVolume _ _
  expire _ _ _ h := h.expire _ _
  arm _ h _ := h
  takeNotices _ h _ := h
  enable _ _ _ h _ := h
  setting _ _ _ _ h _ _ := h.setting _ _ _
  hardReset _ _ _ := State.queueBounded_of_empty rfl
  restart _ _ _ := State.queueBounded_of_empty rfl
  scan _ h _ := h
  fail _ _ h _ := h.failStore _
  proceed _ h := h.proceed
  tick _ h := State.tick_keeps (fun _ _ _ h => h.expire _ _) (fun _ h => h.count)
    (fun _ h => h.reachAllStages) (fun _ h => h.proceed) h
  stage _ a h := (h.reachStages a).proceed

/-- Settles O56: the bounds follow the queue through every operation (`queueBounded_kept`), and an
operation that may let the engine take an entry ends with it proceeding (`readyTaken_kept`). -/
theorem queueInvariant : Obligations.QueueInvariant :=
  ⟨fun _ _ hs ht => queueBounded_kept.step (fun _ _ h _ => h.complete _) hs ht,
    fun _ _ hs ht => readyTaken_kept.step (fun _ _ _ _ => State.readyTaken_afterCompletion _) hs ht⟩

end Sys2Proof.Machine
end

section
/-! SUPPORT. The settings: what a write of one does to every one of them, the ranges of R204, and the volume
table that stands on them (chapters 6 and 10). -/

namespace Sys2Proof.Machine

/-! ### One setting written -/

section
variable (st : Settings) (v w : Fin 64)

/-- A setting that is not per volume has one value, whatever volume is named (R204). -/
theorem Settings.value_volume {name : SettingName} (h : name.perVolume = false) :
    st.value w name = st.value v name := by
  cases name <;> first | rfl | cases h

/-- A volume's policies reach no setting but the three per-volume ones. -/
theorem Settings.value_setPolicy {name : SettingName} (h : name.perVolume = false) (p : VolumePolicy) :
    (st.setPolicy v p).value w name = st.value w name := by
  cases name <;> first | rfl | cases h

theorem Settings.policies_setPolicy (p : VolumePolicy) :
    (st.setPolicy v p).policies.get w = if v = w then p else st.policies.get w :=
  Table.get_set _ _ _ _

/-- A volume's policies reach no other volume's settings. -/
theorem Settings.value_setPolicy_ne {v w : Fin 64} (h : w ≠ v) (p : VolumePolicy) (name : SettingName) :
    (st.setPolicy v p).value w name = st.value w name := by
  by_cases hp : name.perVolume = true
  · have := st.policies_setPolicy v w p
    rw [if_neg h.symm] at this
    cases name
    case registered | autoProbe | autoReturn => simp only [Settings.value, this]
    all_goals cases hp
  · exact st.value_setPolicy v w (by simpa using hp) p

theorem Settings.write_perVolume {name : SettingName} (h : name.perVolume = true) (x : Nat) :
    ∃ p, st.write v x name = st.setPolicy v p ∧
      (name ≠ .registered → p.registered = (st.policies.get v).registered) ∧
      (name ≠ .autoProbe → p.autoProbe = (st.policies.get v).autoProbe) ∧
      (name ≠ .autoReturn → p.autoReturn = (st.policies.get v).autoReturn) := by
  cases name
  case registered | autoProbe | autoReturn => exact ⟨_, rfl, by simp⟩
  all_goals cases h

end

/-- The value a written setting reads as: what was written, of the enables its ten bits (R204, R205). -/
theorem Settings.value_write_self (st : Settings) (v : Fin 64) {name : SettingName} {x : Nat}
    (h : name.admits x = true) :
    (st.write v x name).value v name = if name = .noticeEnables then x % 1024 else x := by
  have flag : x ≤ 1 → yesNoValue (x == 1) = x := fun hx => by interval_cases x <;> rfl
  have act : x ≤ 3 → ((Action.ofCode x).getD .none).byte.toNat = x := fun hx => by
    interval_cases x <;> rfl
  cases name
  case protectionInvert | protectionEnabled => exact flag (by simpa [SettingName.admits] using h)
  case act1 | act2 | act3 => exact act (by simpa [SettingName.admits] using h)
  case registered | autoProbe | autoReturn =>
    simpa [Settings.write, Settings.value, Settings.policies_setPolicy] using
      flag (by simpa [SettingName.admits] using h)
  case noticeEnables => simp [Settings.write, Settings.value]
  all_goals rfl

/-- A write reaches no other setting, and of a per-volume setting no other volume (R205). -/
theorem Settings.value_write_other (st : Settings) {v w : Fin 64} {name other : SettingName} (x : Nat)
    (h : other ≠ name ∨ (name.perVolume = true ∧ w ≠ v)) :
    (st.write v x name).value w other = st.value w other := by
  by_cases hp : name.perVolume = true
  · obtain ⟨p, e, hr, ha, hb⟩ := st.write_perVolume v hp x
    rw [e]
    by_cases hw : w = v
    · subst hw
      have hn : other ≠ name := h.resolve_right fun h => h.2 rfl
      have := st.policies_setPolicy w w p
      rw [if_pos rfl] at this
      by_cases ho : other.perVolume = true
      · cases other
        case registered => simp only [Settings.value, this, hr hn.symm]
        case autoProbe => simp only [Settings.value, this, ha hn.symm]
        case autoReturn => simp only [Settings.value, this, hb hn.symm]
        all_goals cases ho
      · exact st.value_setPolicy w w (by simpa using ho) p
    · exact st.value_setPolicy_ne hw p other
  · have hn : other ≠ name := h.resolve_right fun h => hp h.1
    cases name <;> first | exact absurd rfl hp | (cases other <;> first | rfl | exact absurd rfl hn)

theorem Settings.write_registered (st : Settings) (v w : Fin 64) (x : Nat) (name : SettingName) :
    ((st.write v x name).policies.get w).registered =
      if name = .registered ∧ w = v then x == 1 else (st.policies.get w).registered := by
  by_cases hp : name.perVolume = true
  · obtain ⟨p, e, hr, -⟩ := st.write_perVolume v hp x
    by_cases hw : v = w
    · by_cases hn : name = .registered
      · subst hn hw
        simp [Settings.write, Settings.policies_setPolicy]
      · rw [e, Settings.policies_setPolicy, if_pos hw, hr hn, if_neg (by simp [hn]), hw]
    · rw [e, Settings.policies_setPolicy, if_neg hw, if_neg (fun h => hw h.2.symm)]
  · have hn : name ≠ .registered := fun h => hp (h ▸ rfl)
    rw [if_neg (by simp [hn])]
    cases name <;> first | rfl | exact absurd rfl hp

theorem Settings.inRange_write {st : Settings} (h : st.inRange) {name : SettingName} {x : Nat}
    (ha : name.admits x = true) (v : Fin 64) : (st.write v x name).inRange := by
  intro other w
  by_cases ho : other ≠ name ∨ (name.perVolume = true ∧ w ≠ v)
  · rw [st.value_write_other x ho]
    exact h other w
  · push Not at ho
    obtain ⟨rfl, hw⟩ := ho
    have : (st.write v x other).value w other = (st.write v x other).value v other := by
      by_cases hp : other.perVolume = true
      · rw [hw hp]
      · exact Settings.value_volume _ _ _ (by simpa using hp)
    rw [this, st.value_write_self v ha]
    split
    · subst other; rfl
    · exact ha

theorem Settings.inRange_factory : Settings.factory.inRange := by
  intro name v
  by_cases hp : name.perVolume = true
  · have : Settings.factory.policies.get v = ⟨false, true, true⟩ := Table.get_fill _ _
    cases name
    case registered | autoProbe | autoReturn => simp only [Settings.value, this]; rfl
    all_goals cases hp
  · rw [Settings.value_volume _ 0 v (by simpa using hp)]
    cases name <;> rfl

theorem Settings.inRange_enables {st : Settings} (h : st.inRange) (x : BitVec 10) :
    ({ st with noticeEnables := x } : Settings).inRange := fun name v => by
  have := h name v
  cases name <;> exact this

/-! ### One volume's entry -/

section
variable {e : Volume} {yes : Bool}

/-- A registered volume counts no more than fifteen faults (R108, R115). -/
theorem Volume.agrees.count_le (h : e.agrees yes) : e.faultCount ≤ 15 := by
  unfold Volume.agrees at h
  split at h <;> omega

theorem Volume.agrees.registered (h : e.agrees yes) (hu : e.health ≠ .unregistered) : yes = true := by
  unfold Volume.agrees at h
  split at h
  · exact absurd ‹_› hu
  all_goals exact h.1

theorem Volume.agrees.count_online (h : e.agrees yes) (ho : e.health = .online) : e.faultCount ≤ 14 := by
  simp only [Volume.agrees, ho] at h
  omega

theorem Volume.clean_agrees : Volume.clean.agrees true := ⟨rfl, .inl ⟨rfl, rfl⟩⟩

theorem Volume.registeredAs_agrees (yes : Bool) : (Volume.registeredAs yes).agrees yes := by
  cases yes <;> simp [Volume.registeredAs, Volume.agrees, Volume.clean]

theorem Volume.afterReset_agrees (p : VolumePolicy) : (Volume.afterReset p).agrees p.registered := by
  cases h : p.registered <;> simp [Volume.afterReset, Volume.agrees, h]

theorem Volume.fail_agrees (st : Settings) (h : e.faultCount ≤ 15) : (e.fail st).agrees true :=
  ⟨rfl, h, .inr ⟨_, rfl⟩⟩

theorem Volume.probe_agrees (st : Settings) (h : e.faultCount ≤ 15) : (e.probe st).agrees true :=
  ⟨rfl, h, _, rfl⟩

theorem Volume.observe_agrees (st : Settings) (h : e.faultCount ≤ 15) : (e.observe st).agrees true :=
  ⟨rfl, h, .inr ⟨_, rfl⟩⟩

/-- A registered volume reported to has an entry by the table again (R115, R117, R119, R121). -/
theorem reportFaultMove_agrees {st : Settings} {v : Fin 64} {m : VolumeMove} (h : e.agrees yes)
    (ht : st.faultThreshold ≤ 15) (hm : reportFaultMove st v e = some m) : m.entry.agrees yes := by
  have count := h.count_le
  unfold reportFaultMove at hm
  split at hm
  · cases hm
  · rename_i ho
    have below := h.count_online ho
    obtain rfl := h.registered (by simp [ho])
    dsimp only at hm
    split at hm <;> cases hm
    · exact Volume.fail_agrees st (by simp only; omega)
    · rename_i hc
      simp only [VolumeMove.quiet, Volume.start, Volume.agrees, ho]
      exact ⟨trivial, .inr ⟨by omega, by omega, _, rfl⟩⟩
  · cases hm
    exact h
  all_goals
    obtain rfl := h.registered (by simp [*])
    cases hm
    exact Volume.fail_agrees st count

/-- A probe ended leaves the volume SETTLING or FAILED (R119). -/
theorem probeResultMove_agrees {st : Settings} {good : Bool} {v : Fin 64} {m : VolumeMove} (h : e.agrees yes)
    (hm : probeResultMove st good v e = some m) : m.entry.agrees yes := by
  have count := h.count_le
  unfold probeResultMove at hm
  split at hm
  · obtain rfl := h.registered (by simp [*])
    split at hm <;> cases hm
    · exact Volume.observe_agrees st count
    · exact Volume.fail_agrees st count
  all_goals cases hm

theorem probeVolumeMove_agrees {st : Settings} {m : VolumeMove} (h : e.agrees yes)
    (hm : probeVolumeMove st e = some m) : m.entry.agrees yes := by
  have count := h.count_le
  unfold probeVolumeMove at hm
  split at hm
  · obtain rfl := h.registered (by simp [*])
    cases hm
    exact Volume.probe_agrees st count
  all_goals cases hm

/-- A due interval is the one that the volume's health runs, and its expiry follows the table (R110, R116,
R117, R120, R121). -/
theorem Volume.expire_agrees {i : Interval} {st : Settings} {p : VolumePolicy} {v : Fin 64}
    (h : e.agrees yes) (hd : e.timer = .running i 0) : (e.expire i st p v).entry.agrees yes := by
  have count := h.count_le
  have registered := h.registered
  obtain ⟨health, faultCount, timer⟩ := e
  obtain rfl : timer = .running i 0 := hd
  cases health with
  | unregistered => simp [Volume.agrees] at h
  | online =>
    obtain rfl := registered (by simp)
    obtain rfl : i = .tFwin := by simp [Volume.agrees] at h; exact h.2.2
    exact Volume.clean_agrees
  | failed =>
    obtain rfl := registered (by simp)
    obtain rfl : i = .tPwait := by simp [Volume.agrees] at h; exact h.2
    cases hp : p.autoProbe <;> simp only [Volume.expire, hp]
    · exact ⟨rfl, count, .inl rfl⟩
    · exact Volume.probe_agrees st count
  | probing =>
    obtain rfl := registered (by simp)
    obtain rfl : i = .tPto := by simp [Volume.agrees] at h; exact h.2
    exact Volume.fail_agrees st count
  | settling =>
    obtain rfl := registered (by simp)
    obtain rfl : i = .tStable := by simp [Volume.agrees] at h; exact h.2
    cases hp : p.autoReturn <;> simp only [Volume.expire, hp]
    · exact ⟨rfl, count, .inl rfl⟩
    · exact Volume.clean_agrees

theorem Volume.ticked_agrees (h : e.agrees yes) : e.ticked.agrees yes := by
  obtain ⟨health, faultCount, timer⟩ := e
  cases timer with
  | idle => exact h
  | running i ms =>
    cases health <;> simp only [Volume.agrees, Volume.ticked, Timer.ticked, Timer.running.injEq] at h ⊢
    case unregistered => simp at h
    all_goals simpa using h

end

/-! ### The snapshots in hand -/

/-- A STORE SETTINGS of this snapshot is in flight or deferred (R142). -/
def State.carries (s : State) (st : Settings) : Prop :=
  (∃ f, s.engine.inFlight = some f ∧ f.change = .storeSettings st) ∨
    ∃ e ∈ s.queue, e.payload = .storeSettings st

theorem State.settingsSound_iff {s : State} : s.settingsSound ↔
    s.settings.inRange ∧ (∀ st, s.store.settings = some st → st.inRange) ∧
      ∀ st, s.carries st → st.inRange := by
  constructor
  · rintro ⟨live, stored, flight, queued⟩
    refine ⟨live, stored, ?_⟩
    rintro st (⟨f, hf, hc⟩ | ⟨e, he, hp⟩)
    · exact flight f st hf hc
    · exact queued e he st hp
  · rintro ⟨live, stored, carried⟩
    exact ⟨live, stored, fun f st hf hc => carried st (.inl ⟨f, hf, hc⟩),
      fun e he st hp => carried st (.inr ⟨e, he, hp⟩)⟩

/-- The settings, the volumes and the stored settings as they were, and no snapshot in hand that was not. -/
def State.sameSettings (s t : State) : Prop :=
  t.settings = s.settings ∧ t.volumes = s.volumes ∧ t.store.settings = s.store.settings ∧
    ∀ st, t.carries st → s.carries st

theorem State.sameSettings_refl (s : State) : s.sameSettings s := ⟨rfl, rfl, rfl, fun _ h => h⟩

theorem State.sameSettings.trans {s t u : State} (h : s.sameSettings t) (h' : t.sameSettings u) :
    s.sameSettings u := by
  obtain ⟨h1, h2, h3, h4⟩ := h
  obtain ⟨k1, k2, k3, k4⟩ := h'
  exact ⟨k1.trans h1, k2.trans h2, k3.trans h3, fun st hu => h4 st (k4 st hu)⟩

theorem State.sameSettings.volumesSound {s t : State} (h : s.sameSettings t) (hs : s.volumesSound) :
    t.volumesSound := by
  obtain ⟨h1, h2, h3, h4⟩ := h
  obtain ⟨settings, volumes⟩ := hs
  obtain ⟨live, stored, carried⟩ := State.settingsSound_iff.1 settings
  exact ⟨State.settingsSound_iff.2 ⟨h1 ▸ live, h3 ▸ stored, fun st hst => carried st (h4 st hst)⟩,
    by rw [h1, h2]; exact volumes⟩

/-- What a state carries: the change in flight, and the payloads of the queue. -/
theorem State.carries_of_payloads {s t : State} (hf : t.engine.inFlight = s.engine.inFlight)
    (hq : ∀ c ∈ t.queue.map (·.payload), c ∈ s.queue.map (·.payload)) (st : Settings) (h : t.carries st) :
    s.carries st := by
  rcases h with ⟨f, hf', hc⟩ | ⟨e, he, hp⟩
  · exact .inl ⟨f, hf ▸ hf', hc⟩
  · obtain ⟨x, hx, hxe⟩ := List.mem_map.1 (hq _ (List.mem_map_of_mem he))
    exact .inr ⟨x, hx, hxe.trans hp⟩

namespace State

theorem sameSettings_settleCounts (s : State) : s.sameSettings s.settleCounts :=
  ⟨rfl, rfl, rfl, State.carries_of_payloads rfl (by simp [Function.comp_def])⟩

theorem map_payload_modifyEntry {f : Entry → Entry} (hf : ∀ e, (f e).payload = e.payload) (a : Nat)
    (q : List Entry) : (modifyEntry a f q).map (·.payload) = q.map (·.payload) := by
  simp only [modifyEntry, List.map_map]
  refine List.map_congr_left fun e _ => ?_
  by_cases h : e.accession = a <;> simp [h, hf]

theorem sameSettings_takeStage (s : State) (a k : Nat) : s.sameSettings (s.takeStage a k) := by
  obtain ⟨m, f, e, -⟩ := s.takeStage_eq a k
  rw [e]
  refine ⟨rfl, rfl, rfl, State.carries_of_payloads rfl fun c hc => ?_⟩
  rwa [State.withCursors_queue, State.withNotices_queue, State.withQueue_queue,
    map_payload_modifyEntry (f := fun e => { e with stage := k }) fun _ => rfl] at hc

theorem sameSettings_reachStages (s : State) (a : Nat) : s.sameSettings (s.reachStages a) :=
  State.reachStages_keeps (P := s.sameSettings) (fun t a k h _ _ => h.trans (t.sameSettings_takeStage a k))
    (fun t h => h.trans t.sameSettings_settleCounts) a s.sameSettings_refl

theorem sameSettings_reachAllStages (s : State) : s.sameSettings s.reachAllStages :=
  State.reachAllStages_keeps (P := s.sameSettings)
    (fun t a k h _ _ => h.trans (t.sameSettings_takeStage a k))
    (fun t h => h.trans t.sameSettings_settleCounts) s.sameSettings_refl

theorem sameSettings_settle (s : State) : s.sameSettings s.settle :=
  State.settle_keeps (P := s.sameSettings) (fun t a k h _ _ => h.trans (t.sameSettings_takeStage a k))
    (fun t h => h.trans t.sameSettings_settleCounts) s.sameSettings_refl

theorem sameSettings_removeEntry (s : State) (a : Nat) : s.sameSettings (s.removeEntry a) :=
  ⟨rfl, rfl, rfl, State.carries_of_payloads rfl fun _ hc => (List.filter_sublist.map _).subset hc⟩

theorem sameSettings_lateFailure (s : State) (e : Entry) (o : CommitOutcome) :
    s.sameSettings (s.lateFailure e o) :=
  ⟨by simp [State.lateFailure], by simp [State.lateFailure], by simp [State.lateFailure],
    State.carries_of_payloads (by simp [State.lateFailure]) fun _ hc => by
      rw [State.lateFailure_queue] at hc
      exact (List.filter_sublist.map _).subset hc⟩

theorem sameSettings_proceed (s : State) : s.sameSettings s.proceed := by
  refine State.proceed_keeps (P := s.sameSettings) (fun t e o h _ _ _ => h.trans (t.sameSettings_lateFailure e o))
    (fun t e h _ he _ => h.trans ⟨rfl, rfl, rfl, ?_⟩) s.sameSettings_refl
  have member := List.mem_of_find?_eq_some he
  rintro st (⟨f, hf, hc⟩ | ⟨x, hx, hp⟩)
  · cases hf
    exact .inr ⟨e, member, hc⟩
  · have := List.mem_map_of_mem (f := Entry.payload) hx
    rw [State.startCommit_queue, State.withQueue_queue,
      map_payload_modifyEntry (f := fun x => { x with state := .committing }) fun _ => rfl] at this
    obtain ⟨y, hy, hyx⟩ := List.mem_map.1 this
    exact .inr ⟨y, hy, hyx.trans hp⟩

theorem sameSettings_releaseEntry (s : State) (f : InFlight) : s.sameSettings (s.releaseEntry f) := by
  rcases s.releaseEntry_cases f with ⟨-, e⟩ | ⟨-, e⟩ <;> rw [e]
  · exact s.sameSettings_refl
  · exact s.sameSettings_removeEntry _

end State

/-! ### The volume table under each operation -/

theorem State.volumesSound_startUp {store : Store} (h : ∀ st, store.settings = some st → st.inRange)
    (pending : List Instr) (selectLow : Bool) (k : Nat) :
    (State.startUp pending selectLow store k).volumesSound := by
  refine ⟨State.settingsSound_iff.2 ⟨?_, h, ?_⟩, fun v => ?_⟩
  · simp only [State.startUp]
    cases hst : store.settings with
    | none => exact Settings.inRange_factory
    | some st => exact h st hst
  · rintro st (⟨f, hf, -⟩ | ⟨e, he, -⟩)
    · cases hf
    · cases he
  · simp only [State.startUp, Table.get_map]
    exact Volume.afterReset_agrees _

theorem State.storedInRange {s : State} (hs : s.volumesSound) :
    ∀ st, s.store.settings = some st → st.inRange := hs.1.2.1

theorem State.volumesSound_afterCompletion {s : State} (hs : s.volumesSound) :
    s.afterCompletion.volumesSound :=
  State.afterCompletion_keeps (fun h => State.volumesSound_startUp (State.storedInRange h) _ _ _)
    (fun h => s.sameSettings_proceed.volumesSound h) hs

/-- The stored settings a completion with DONE leaves: the snapshot of a STORE SETTINGS, or those that
stood (R207). -/
theorem State.storedInRange_applyStore {s : State} {f : InFlight} (hs : s.volumesSound)
    (hf : s.engine.inFlight = some f) :
    ∀ st, (f.change.applyStore s.store).settings = some st → st.inRange := by
  obtain ⟨-, stored, flight, -⟩ := hs.1
  intro st hst
  cases hc : f.change <;> simp only [hc, Change.applyStore] at hst
  case storeSettings snapshot =>
    cases hst
    exact flight f _ hf hc
  all_goals exact stored st hst

theorem State.volumesSound_complete {s : State} {f : InFlight} (hs : s.volumesSound)
    (hf : s.engine.inFlight = some f) : (s.complete f).volumesSound := by
  rw [State.complete_eq]
  apply State.volumesSound_afterCompletion
  obtain ⟨settings, volumes⟩ := hs
  obtain ⟨live, -, carried⟩ := State.settingsSound_iff.1 settings
  have installed : (s.install f.change).settings = s.settings ∧ (s.install f.change).volumes = s.volumes ∧
      (s.install f.change).queue.map (·.payload) = s.queue.map (·.payload) := by
    by_cases hc : f.change.kind = .clearHoldings
    · obtain hc : f.change = .clearHoldings := by cases h : f.change <;> simp_all [Change.kind]
      simp only [hc, State.install, State.dropRemoved_eq]
      exact ⟨rfl, rfl, by simp [Function.comp_def]⟩
    · rw [State.install_of_ne hc]
      exact ⟨rfl, rfl, rfl⟩
  have released : ((s.install f.change).withEngine { s.engine with inFlight := none }).volumesSound := by
    refine ⟨State.settingsSound_iff.2 ⟨installed.1 ▸ live, ?_, ?_⟩, fun v => ?_⟩
    · rw [State.withEngine_store, (s.install_core f.change).2.1]
      exact State.storedInRange_applyStore ⟨settings, volumes⟩ hf
    · rintro st (⟨_, hf, -⟩ | ⟨e, he, hp⟩)
      · cases hf
      · have := List.mem_map_of_mem (f := Entry.payload) he
        rw [State.withEngine_queue, installed.2.2] at this
        obtain ⟨x, hx, hxe⟩ := List.mem_map.1 this
        exact carried st (.inr ⟨x, hx, hxe.trans hp⟩)
    · simpa [installed.1, installed.2.1] using volumes v
  have := (State.sameSettings_releaseEntry _ f).volumesSound released
  simpa [State.completed, State.volumesSound, State.settingsSound] using this

theorem State.volumesSound_failStore {s : State} (hs : s.volumesSound) (f : InFlight) :
    (s.failStore f).volumesSound := by
  rw [State.failStore_eq]
  apply State.volumesSound_afterCompletion
  have returned : s.sameSettings (s.returned f) := ⟨rfl, rfl, rfl, fun st h => h.elim
    (fun ⟨_, hf, _⟩ => by cases hf) .inr⟩
  have := (returned.trans (State.sameSettings_releaseEntry _ f)).volumesSound hs
  simpa [State.storeFaulted, State.volumesSound, State.settingsSound] using this

theorem State.volumesSound_moveVolume {s : State} {v : Fin 64} {m : VolumeMove} (hs : s.volumesSound)
    (hm : m.entry.agrees (s.settings.policies.get v).registered) : (s.moveVolume v m).volumesSound := by
  obtain ⟨n, e, -⟩ := s.moveVolume_eq v m
  rw [e]
  refine ⟨hs.1, fun w => ?_⟩
  simp only [State.withNotices_volumes, State.setVolume_volumes, Table.get_set]
  split
  · subst w; exact hm
  · exact hs.2 w

theorem State.volumesSound_command {s : State} {v : Fin 64} {m : VolumeMove} (hs : s.volumesSound)
    (hm : s.commandsMove v m) : (s.moveVolume v m).volumesSound := by
  obtain ⟨hu, hm⟩ := hm
  have agrees := hs.2 v
  have threshold : s.settings.faultThreshold ≤ 15 :=
    (of_decide_eq_true (hs.1.1 .faultThreshold v)).2
  refine State.volumesSound_moveVolume hs ?_
  rcases hm with h | ⟨good, h⟩ | h | rfl | rfl
  · exact reportFaultMove_agrees agrees threshold h
  · exact probeResultMove_agrees agrees h
  · exact probeVolumeMove_agrees agrees h
  · rw [agrees.registered hu]
    exact Volume.fail_agrees _ agrees.count_le
  · rw [agrees.registered hu]
    exact Volume.clean_agrees

theorem State.volumesSound_expire {s : State} (hs : s.volumesSound) (v : Fin 64) (i : Interval) :
    (s.expire v i).volumesSound := by
  rcases s.expire_cases v i with e | ⟨hd, e⟩ <;> rw [e]
  · exact hs
  · exact State.volumesSound_moveVolume hs (Volume.expire_agrees (hs.2 v) hd)

theorem State.volumesSound_count {s : State} (hs : s.volumesSound) : s.count.volumesSound := by
  obtain ⟨settings, volumes⟩ := hs
  obtain ⟨live, stored, carried⟩ := State.settingsSound_iff.1 settings
  refine ⟨State.settingsSound_iff.2 ⟨by simpa using live, by simpa using stored, fun st hst =>
    carried st (State.carries_of_payloads (by simp) (fun c hc => ?_) st hst)⟩, fun v => ?_⟩
  · rw [State.count_queue] at hc
    split at hc
    · exact hc
    · simpa [Function.comp_def] using hc
  · simpa using Volume.ticked_agrees (volumes v)

/-- An accepted change in hand is a STORE SETTINGS of the live settings, or no STORE SETTINGS (R142). -/
theorem State.volumesSound_acceptChange {s : State} {c : Change} (hs : s.volumesSound) (hc : s.asks c)
    (strict : Bool) : (s.acceptChange c strict).1.volumesSound := by
  obtain ⟨settings, volumes⟩ := hs
  obtain ⟨live, stored, carried⟩ := State.settingsSound_iff.1 settings
  rcases s.acceptChange_cases c strict with e | ⟨-, -, hd, -, -, e⟩ | ⟨-, -, -, -, -, e⟩ <;> rw [e]
  · exact ⟨settings, volumes⟩
  · rw [State.join_eq]
    have joined : s.sameSettings (s.joined c) := by
      refine ⟨rfl, rfl, rfl, ?_⟩
      rintro st (h | ⟨x, hx, hp⟩)
      · exact .inl h
      · rcases List.mem_append.1 hx with hx | hx
        · exact .inr ⟨x, hx, hp⟩
        · obtain rfl := List.mem_singleton.1 hx
          obtain rfl : c = .storeSettings st := hp
          cases hd
    exact (joined.trans ((State.sameSettings_reachStages _ _).trans
      (State.sameSettings_proceed _))).volumesSound ⟨settings, volumes⟩
  · refine ⟨State.settingsSound_iff.2 ⟨live, stored, ?_⟩, volumes⟩
    rintro st (⟨f, hf, hcf⟩ | h)
    · cases hf
      rw [hc.2 st hcf]
      exact live
    · exact carried st (.inr h)

theorem State.volumesSound_setting {s : State} (hs : s.volumesSound) {name : SettingName} {x : Nat}
    (ha : name.admits x = true) (v : Fin 64) :
    ((s.withSettings (s.settings.write v x name)).settingActs name v).volumesSound := by
  obtain ⟨⟨live, rest⟩, volumes⟩ := hs
  have range := Settings.inRange_write live ha v
  by_cases hn : name = .registered
  · subst hn
    refine ⟨⟨range, rest⟩, fun w => ?_⟩
    change ((s.volumes.set v (Volume.registeredAs
      ((s.settings.write v x .registered).policies.get v).registered)).get w).agrees
        ((s.settings.write v x .registered).policies.get w).registered
    rw [Table.get_set]
    split
    · subst w; exact Volume.registeredAs_agrees _
    · rename_i hw
      rw [Settings.write_registered, if_neg (fun h => hw h.2.symm)]
      exact volumes w
  · have written : (s.withSettings (s.settings.write v x name)).volumesSound := by
      refine ⟨⟨range, rest⟩, fun w => ?_⟩
      change (s.volumes.get w).agrees ((s.settings.write v x name).policies.get w).registered
      rw [Settings.write_registered, if_neg (fun h => hn h.1)]
      exact volumes w
    cases name
    case registered => exact absurd rfl hn
    case tHold1 | tHold2 | tHold3 =>
      exact ((State.sameSettings_reachAllStages _).trans (State.sameSettings_proceed _)).volumesSound written
    all_goals exact written

theorem State.volumesSound_tick {s : State} (hs : s.volumesSound) : s.tick.volumesSound :=
  State.tick_keeps (P := State.volumesSound) (fun _ _ _ h => State.volumesSound_expire h _ _)
    (fun _ h => State.volumesSound_count h) (fun t h => t.sameSettings_reachAllStages.volumesSound h)
    (fun t h => t.sameSettings_proceed.volumesSound h) hs

theorem volumesSound_kept : Kept State.volumesSound where
  pending _ _ h := h
  pins _ _ h := h
  link _ _ h := h
  condition _ _ h := h
  resetPending _ h _ := h
  change _ _ _ h _ hc := State.volumesSound_acceptChange h hc _
  pathWork s n c m r h _ _ _ :=
    ((State.sameSettings_settle (((s.setCursor n c).withNotices m).withResolution r)).trans
      (State.sameSettings_proceed _)).volumesSound h
  loop _ _ _ h _ _ _ := h
  cancel s e h _ _ _ := (s.sameSettings_removeEntry e.accession).volumesSound h
  freeze _ h _ _ := h
  thaw s h _ _ := ((State.sameSettings_reachAllStages (s.withEngine { s.engine with frozen := false })).trans
    (State.sameSettings_proceed _)).volumesSound h
  volume _ _ _ h _ hm := State.volumesSound_command h hm
  expire _ _ _ h := State.volumesSound_expire h _ _
  arm _ h _ := h
  takeNotices _ h _ := h
  enable _ _ _ h _ := ⟨⟨Settings.inRange_enables h.1.1 _, h.1.2⟩, h.2⟩
  setting _ _ _ _ h _ ha := State.volumesSound_setting h ha _
  hardReset s mark h := by
    have stored : ∀ st, (s.storeAtHardReset mark).settings = some st → st.inRange := by
      unfold State.storeAtHardReset
      split
      · exact State.storedInRange h
      · split
        · exact State.storedInRange_applyStore h ‹_›
        · exact State.storedInRange h
    exact State.volumesSound_startUp stored s.pending false s.openValues
  restart _ _ h := State.volumesSound_startUp (State.storedInRange h) _ _ _
  scan _ h _ := h
  fail _ _ h _ := State.volumesSound_failStore h _
  proceed s h := s.sameSettings_proceed.volumesSound h
  tick _ h := State.volumesSound_tick h
  stage s a h := ((s.sameSettings_reachStages a).trans (State.sameSettings_proceed _)).volumesSound h

/-- Settles O59: the volumes move by the table of R108, each setting written is admitted, and a snapshot
stored was live when its STORE SETTINGS started (`volumesSound_kept`). -/
theorem volumeInvariant : Obligations.VolumeInvariant :=
  fun _ _ hs ht => volumesSound_kept.step (fun _ _ h hf => State.volumesSound_complete h hf) hs ht

end Sys2Proof.Machine
end

section
/-! SUPPORT. What a change makes of its records, field by field, and the content checks that keep a segment
list tiling its item (chapters 1, 2 and 7). -/

namespace Sys2Proof.Machine

/-! ### The record a change leaves -/

/-- The record that a change of a standing record leaves, and `none` for a purge (R144). -/
def Change.revise (c : Change) (r : ItemRecord) : Option ItemRecord :=
  match c with
  | .writeItem h segments => some (recordOfHeader h segments (r.revision + 1#16))
  | .amendSegments _ first k _ run =>
    some { r.revised with segments := amendedSegments r.segments first k run }
  | .setItemFields _ fields => some (r.revised.withFields fields)
  | .certifyItem _ => some { r.revised with state := .certified }
  | .retireItem _ successor => some { r.revised with
      state := .withdrawn
      successor := if successor = 0 then none else some successor
      segments := [] }
  | .purgeItem _ => none
  | .clearHoldings => some r
  | .storeSettings _ => some r

/-- A change of one item, but for a create and a purge, rewrites its record in place (R144). -/
theorem Change.applyRecords_modify {c : Change} {records : List ItemRecord} (hc : c.namesItem = true)
    (hk : c.kind ≠ .purgeItem)
    (hw : c.kind = .writeItem → (findRecord records c.accession).isSome = true) :
    ∃ f : ItemRecord → ItemRecord, (∀ r, r.accession = c.accession → (f r).accession = c.accession) ∧
      (∀ r, c.revise r = some (f r)) ∧ c.applyRecords records = modifyRecord c.accession f records := by
  cases c with
  | writeItem h segments =>
    obtain ⟨r, hr⟩ := Option.isSome_iff_exists.1 (hw rfl)
    simp only [Change.accession] at hr
    exact ⟨_, fun _ _ => rfl, fun _ => rfl, by simp only [Change.applyRecords, hr]; rfl⟩
  | amendSegments | setItemFields | certifyItem | retireItem =>
    refine ⟨_, ?_, fun _ => rfl, rfl⟩
    exact fun _ h => h
  | purgeItem => exact absurd rfl hk
  | clearHoldings => cases hc
  | storeSettings => cases hc

theorem Change.findRecord_applyRecords_create {h : WireHeader} {segments : List WireSegment}
    {records : List ItemRecord} (hr : findRecord records h.accession.toNat = none) :
    findRecord ((Change.writeItem h segments).applyRecords records) h.accession.toNat =
      some (recordOfHeader h segments 0#16) := by
  simp only [Change.applyRecords, hr]
  exact (findRecord_insertRecord (r := recordOfHeader h segments 0#16) hr _).trans (if_pos rfl)

/-- A purge leaves no record at its accession (R6). -/
theorem Change.findRecord_applyRecords_purge (a : Nat) (records : List ItemRecord) :
    findRecord ((Change.purgeItem a).applyRecords records) a = none :=
  (findRecord_filter_ne a a).trans (if_pos rfl)

/-- A change of one item reaches no other record (R144). -/
theorem Change.findRecord_applyRecords_other {c : Change} {records : List ItemRecord} {b : Nat}
    (hc : c.namesItem = true) (hb : b ≠ c.accession) :
    findRecord (c.applyRecords records) b = findRecord records b := by
  by_cases hk : c.kind = .purgeItem
  · cases c <;> simp only [Change.kind, reduceCtorEq] at hk
    exact (findRecord_filter_ne _ b).trans (if_neg hb)
  · by_cases hw : c.kind = .writeItem → (findRecord records c.accession).isSome = true
    · obtain ⟨f, hf, -, e⟩ := Change.applyRecords_modify hc hk hw
      rw [e, findRecord_modifyRecord hf, if_neg hb]
    · push Not at hw
      obtain ⟨hw, hn⟩ := hw
      cases c <;> simp only [Change.kind, reduceCtorEq] at hw
      simp only [Change.accession, ne_eq, Option.isSome_iff_ne_none, not_not] at hn
      simp only [Change.applyRecords, hn]
      exact (findRecord_insertRecord (r := recordOfHeader _ _ 0#16) hn b).trans (if_neg hb)

/-- A change of a standing item leaves what `revise` says (R144). -/
theorem Change.findRecord_applyRecords_self {c : Change} {records : List ItemRecord} {r : ItemRecord}
    (hc : c.namesItem = true) (hr : findRecord records c.accession = some r) :
    findRecord (c.applyRecords records) c.accession = c.revise r := by
  by_cases hk : c.kind = .purgeItem
  · cases c <;> simp only [Change.kind, reduceCtorEq] at hk
    exact Change.findRecord_applyRecords_purge _ _
  · obtain ⟨f, hf, hv, e⟩ := Change.applyRecords_modify hc hk (records := records) fun _ => by simp [hr]
    rw [e, findRecord_modifyRecord hf, if_pos rfl, hr, hv]
    rfl

/-- Settles O21, from the record that each change leaves (`Change.revise`). -/
theorem commitRevises : Obligations.CommitRevises := by
  intro c records hc
  refine ⟨fun b hb => Change.findRecord_applyRecords_other hc hb, ?_, ?_, fun _ _ _ => rfl, ?_⟩
  · intro hk
    cases c <;> simp only [Change.kind, reduceCtorEq] at hk
    exact Change.findRecord_applyRecords_purge _ _
  · rintro h segments rfl hr
    exact Change.findRecord_applyRecords_create hr
  · intro r hr hk
    have found := Change.findRecord_applyRecords_self hc hr
    cases c with
    | purgeItem => exact absurd rfl hk
    | clearHoldings => cases hc
    | storeSettings => cases hc
    | writeItem | amendSegments | setItemFields | certifyItem | retireItem =>
      refine ⟨_, found, rfl, fun _ _ e => ?_, fun _ _ _ _ _ e => ?_, fun _ _ e => ?_, fun _ e => ?_,
        fun _ _ e => ?_⟩
      all_goals cases e
      all_goals rfl

/-! ### Segment lists that tile -/

theorem tilesFrom_append {start stop : Nat} {l l' : List Segment} :
    tilesFrom start (l ++ l') stop ↔ ∃ middle, tilesFrom start l middle ∧ tilesFrom middle l' stop := by
  induction l generalizing start with
  | nil => simp [tilesFrom]
  | cons g rest ih => simp only [List.cons_append, tilesFrom, ih]; aesop

/-- A tiling cut at one of its segments: what stands before it ends at its start, and what stands after it
begins at its end. -/
theorem tilesFrom_cut {start stop : Nat} {l : List Segment} (h : tilesFrom start l stop) {i : Nat}
    {g : Segment} (hg : l[i]? = some g) :
    tilesFrom start (l.take i) g.start ∧ tilesFrom (g.start + g.length) (l.drop (i + 1)) stop := by
  induction l generalizing start i with
  | nil => simp at hg
  | cons x rest ih =>
    obtain ⟨hx, hpos, hrest⟩ := h
    cases i with
    | zero =>
      obtain rfl : x = g := by simpa using hg
      exact ⟨hx.symm, by simpa [hx] using hrest⟩
    | succ i =>
      obtain ⟨before, after⟩ := ih hrest (by simpa using hg)
      exact ⟨⟨hx, hpos, before⟩, after⟩

/-- What passing every check of R30 gives of a segment's span. -/
theorem segmentReason_eq_none {duration expected : Nat} {g : WireSegment}
    (h : segmentReason duration expected g = none) :
    g.start.toNat = expected ∧ 1 ≤ g.length.toNat ∧ wireEnd g ≤ duration := by
  unfold segmentReason at h
  split at h
  · cases h
  · split at h
    · cases h
    · split at h
      · cases h
      · rename_i hs hl
        rw [not_or] at hl
        exact ⟨not_not.1 hs, Nat.one_le_iff_ne_zero.2 hl.1, not_lt.1 hl.2⟩

@[simp] theorem runEnd_nil (start : Nat) : runEnd start [] = start := rfl

@[simp] theorem runEnd_cons (start : Nat) (g : WireSegment) (rest : List WireSegment) :
    runEnd start (g :: rest) = runEnd (wireEnd g) rest := by
  cases rest with
  | nil => rfl
  | cons x l => simp [runEnd, List.getLast?_eq_getLast_of_ne_nil]

theorem segmentsReport_cons (duration expected position : Nat) (g : WireSegment) (rest : List WireSegment) :
    segmentsReport duration expected position (g :: rest) =
      match segmentReason duration expected g with
      | some reason => some ⟨reason, .segment position⟩
      | none => segmentsReport duration (wireEnd g) (position + 1) rest := rfl

/-- A run in which no segment fails tiles from where it must start to where it ends (R28, R30). -/
theorem tilesFrom_of_segmentsReport {duration expected position : Nat} {run : List WireSegment}
    (h : segmentsReport duration expected position run = none) :
    tilesFrom expected (run.map segmentOfWire) (runEnd expected run) := by
  induction run generalizing expected position with
  | nil => rfl
  | cons g rest ih =>
    rw [segmentsReport_cons] at h
    cases hg : segmentReason duration expected g with
    | some reason => simp [hg] at h
    | none =>
      rw [hg] at h
      obtain ⟨start, length, -⟩ := segmentReason_eq_none hg
      rw [List.map_cons, runEnd_cons, ← start]
      exact ⟨rfl, length, ih h⟩

theorem expectedSegments_cases (count : Byte) :
    (expectedSegments count = 0 ∧ ¬(1 ≤ count.toNat ∧ count.toNat ≤ 64)) ∨
      (expectedSegments count = count.toNat ∧ 1 ≤ count.toNat ∧ count.toNat ≤ 64) := by
  unfold expectedSegments
  split
  · exact .inr ⟨rfl, ‹_›⟩
  · exact .inl ⟨rfl, ‹_›⟩

/-- A WRITE ITEM that passes its content check gives a tiled record (R28 to R31). -/
theorem tiled_of_writeReport {h : WireHeader} {segments : List WireSegment} (revision : BitVec 16)
    (hl : segments.length = expectedSegments h.segmentCount) (hw : writeReport h segments = none) :
    (recordOfHeader h segments revision).tiled := by
  unfold writeReport at hw
  split at hw
  · cases hw
  · split at hw
    · cases hw
    · rename_i hcount
      cases hr : segmentsReport h.duration.toNat 0 0 segments with
      | some report => simp [hr] at hw
      | none =>
        simp only [hr] at hw
        split at hw
        · cases hw
        · rename_i hend
          have tiles := tilesFrom_of_segmentsReport hr
          rw [not_not.1 hend] at tiles
          refine ⟨?_, ?_, tiles⟩ <;>
            simp only [recordOfHeader, List.length_map, hl, Config.segmentLimit] <;>
            rcases expectedSegments_cases h.segmentCount with h | h <;> omega

/-- An AMEND SEGMENTS that passes its content check (R32). -/
theorem amendReport_eq_none {r : ItemRecord} {first k m : Nat} {run : List WireSegment}
    (h : amendReport r first k m run = none) :
    (1 ≤ k ∧ k ≤ 64 ∧ 1 ≤ m ∧ m ≤ 64 ∧ first + k ≤ r.segments.length) ∧
      segmentsReport r.duration (startOf r.segments first) 0 run = none ∧
      runEnd (startOf r.segments first) run = endOf r.segments (first + k - 1) ∧
      r.segments.length - k + m ≤ Config.segmentLimit := by
  unfold amendReport at h
  split at h
  · cases h
  · rename_i range
    cases hr : segmentsReport r.duration (startOf r.segments first) 0 run with
    | some report => simp [hr] at h
    | none =>
      simp only [hr] at h
      split at h
      · cases h
      · rename_i hend
        split at h
        · cases h
        · exact ⟨not_not.1 range, rfl, not_not.1 hend, not_lt.1 ‹_›⟩

/-- An AMEND SEGMENTS that passes leaves a tiled record tiled over the same duration (R28, R32). -/
theorem tiled_of_amendReport {r : ItemRecord} {first k m : Nat} {run : List WireSegment} (hr : r.tiled)
    (hm : run.length = m) (h : amendReport r first k m run = none) :
    ({ r with segments := amendedSegments r.segments first k run } : ItemRecord).tiled := by
  obtain ⟨-, -, tiles⟩ := hr
  obtain ⟨⟨hk, -, hm1, -, hlen⟩, passes, hend, total⟩ := amendReport_eq_none h
  obtain ⟨old, hold⟩ : ∃ g, r.segments[first]? = some g :=
    ⟨_, List.getElem?_eq_getElem (by omega)⟩
  obtain ⟨last, hlast⟩ : ∃ g, r.segments[first + k - 1]? = some g :=
    ⟨_, List.getElem?_eq_getElem (by omega)⟩
  have before := (tilesFrom_cut tiles hold).1
  have after := (tilesFrom_cut tiles hlast).2
  have middle := tilesFrom_of_segmentsReport passes
  rw [hend] at middle
  simp only [startOf, endOf, hold, hlast, Option.map_some, Option.getD_some] at middle
  have hnext : first + k - 1 + 1 = first + k := by omega
  rw [hnext] at after
  have hcount := length_amendedSegments r.segments first k run
  simp only [List.length_take, List.length_drop] at hcount
  refine ⟨?_, ?_, ?_⟩
  · simp only
    omega
  · simp only
    omega
  · simp only [amendedSegments, tilesFrom_append]
    exact ⟨_, ⟨_, before, middle⟩, after⟩

/-! ### The checks of R30 as a table -/

/-- The reason of the first row that fails. -/
def firstFailing (rows : List (Reason × Bool)) : Option Reason := (rows.find? (·.2)).map (·.1)

@[simp] theorem firstFailing_nil : firstFailing [] = none := rfl

theorem firstFailing_cons (reason : Reason) (fails : Prop) [Decidable fails] (rows : List (Reason × Bool)) :
    firstFailing ((reason, decide fails) :: rows) = if fails then some reason else firstFailing rows := by
  by_cases h : fails <;> simp [firstFailing, h]

theorem firstFailing_eq_some {rows before after : List (Reason × Bool)} {reason : Reason}
    (h : rows = before ++ (reason, true) :: after) (hb : ∀ row ∈ before, row.2 = false) :
    firstFailing rows = some reason := by
  have : before.find? (·.2) = none := List.find?_eq_none.2 fun row hr => by simp [hb row hr]
  simp [firstFailing, h, List.find?_append, this]

theorem firstFailing_eq_none {rows : List (Reason × Bool)} (h : ∀ row ∈ rows, row.2 = false) :
    firstFailing rows = none := by
  have : rows.find? (·.2) = none := List.find?_eq_none.2 fun row hr => by simp [h row hr]
  simp [firstFailing, this]

section
variable (g : WireSegment)

theorem trimInRange_row (x : Int) : (!trimInRange x) = true ↔ x < -600 ∨ 120 < x := by
  simp only [trimInRange, Config.minGain, Config.maxGain, Bool.not_eq_true', decide_eq_false_iff_not]
  omega

theorem speedPasses_row (n d : BitVec 16) : (!speedPasses n.toNat d.toNat) = true ↔
    n = 0#16 ∨ d = 0#16 ∨ 8 * d.toNat < n.toNat ∨ 8 * n.toNat < d.toNat := by
  simp only [speedPasses, Bool.not_eq_true', decide_eq_false_iff_not]
  bv_omega

theorem placementPasses_row : (!placementPasses g) = true ↔
    63 < g.primaryVolume.toNat ∨ (63 < g.secondaryVolume.toNat ∧ g.secondaryVolume ≠ 0xFF#8) := by
  simp only [placementPasses, Bool.not_eq_true', Bool.and_eq_false_iff, Bool.or_eq_false_iff,
    decide_eq_false_iff_not, beq_eq_false_iff_ne, not_le]
  tauto

theorem placementRangePasses_row : (!placementRangePasses g) = true ↔
    2 ^ 48 < g.primaryBase.toNat + g.count.toNat * (wireChannels g * wireWidth g) ∨
      (g.secondaryVolume ≠ 0xFF#8 ∧
        2 ^ 48 < g.secondaryBase.toNat + g.count.toNat * (wireChannels g * wireWidth g)) := by
  simp only [placementRangePasses, rangePasses, Config.byteLimit, Bool.not_eq_true', Bool.and_eq_false_iff,
    Bool.or_eq_false_iff, decide_eq_false_iff_not, beq_eq_false_iff_ne, not_le]
  norm_num

/-- The rows of a TRANSFER segment after TRIM, as the check takes them (R30). -/
theorem transferReason_eq : transferReason g = firstFailing
    [(.rate, decide (g.rate.toNat ∉ [44100, 48000, 88200, 96000, 176400, 192000])),
      (.frame, decide (wireChannels g < 1 ∨ 2 < wireChannels g ∨ wireWidth g < 2 ∨ 4 < wireWidth g)),
      (.speed, decide (g.nominal = 0#16 ∨ g.speed = 0#16 ∨
        8 * g.speed.toNat < g.nominal.toNat ∨ 8 * g.nominal.toNat < g.speed.toNat)),
      (.count, decide (g.count.toNat < 1 ∨ 2 ^ 47 < g.count.toNat)),
      (.placement, decide (63 < g.primaryVolume.toNat ∨
        (63 < g.secondaryVolume.toNat ∧ g.secondaryVolume ≠ 0xFF#8))),
      (.placementRange,
        decide (2 ^ 48 < g.primaryBase.toNat + g.count.toNat * (wireChannels g * wireWidth g) ∨
          (g.secondaryVolume ≠ 0xFF#8 ∧
            2 ^ 48 < g.secondaryBase.toNat + g.count.toNat * (wireChannels g * wireWidth g))))] := by
  have rate : (!rates.contains g.rate.toNat) = true ↔
      g.rate.toNat ∉ [44100, 48000, 88200, 96000, 176400, 192000] := by
    simp [rates]
  have frame : (!decide (1 ≤ wireChannels g ∧ wireChannels g ≤ 2 ∧ 2 ≤ wireWidth g ∧
      wireWidth g ≤ 4)) = true ↔
      wireChannels g < 1 ∨ 2 < wireChannels g ∨ wireWidth g < 2 ∨ 4 < wireWidth g := by
    simp only [Bool.not_eq_true', decide_eq_false_iff_not]
    omega
  have count : (!decide (1 ≤ g.count.toNat ∧ g.count.toNat ≤ Config.maxSampleCount)) = true ↔
      g.count.toNat < 1 ∨ 2 ^ 47 < g.count.toNat := by
    simp only [Bool.not_eq_true', decide_eq_false_iff_not, Config.maxSampleCount]
    omega
  simp only [transferReason, firstFailing_cons, firstFailing_nil, rate, frame, count, speedPasses_row,
    placementPasses_row, placementRangePasses_row]

/-- The rows of a REFERENCE segment after TRIM (R30). -/
theorem referenceReason_eq : referenceReason g = firstFailing
    [(.target, decide (g.rate = 0#24)),
      (.offset, decide
        (2 ^ 36 ≤ g.nominal.toNat * 2 ^ 24 + g.speed.toNat * 2 ^ 8 + g.count.toNat / 2 ^ 40))] := by
  have target : g.rate.toNat = 0 ↔ g.rate = 0#24 := by bv_omega
  have offset : Config.maxPosition < wireTargetOffset g ↔
      2 ^ 36 ≤ g.nominal.toNat * 2 ^ 24 + g.speed.toNat * 2 ^ 8 + g.count.toNat / 2 ^ 40 := by
    simp only [Config.maxPosition, wireTargetOffset]
    omega
  simp only [referenceReason, firstFailing_cons, firstFailing_nil, target, offset]

/-- The segment check takes the rows of R30's table in order: its reason is that of the first row that
fails. -/
theorem segmentReason_eq_firstFailing (duration expected : Nat) :
    segmentReason duration expected g = firstFailing (segmentTable duration expected g) := by
  have kind : (!decide (1 ≤ g.kind.toNat ∧ g.kind.toNat ≤ 3)) = true ↔
      g.kind ≠ 1#8 ∧ g.kind ≠ 2#8 ∧ g.kind ≠ 3#8 := by
    simp only [Bool.not_eq_true', decide_eq_false_iff_not]
    bv_omega
  have one : g.kind.toNat = 1 ↔ g.kind = 1#8 := by bv_omega
  have three : g.kind.toNat = 3 ↔ g.kind = 3#8 := by bv_omega
  simp only [segmentReason, segmentTable, firstFailing_cons, firstFailing_nil, kind, trimInRange_row, one,
    three, transferReason_eq, referenceReason_eq]
  simp only [wireEnd, wireChannels, wireWidth]
  by_cases h1 : g.kind = 1#8
  · simp only [h1, true_and, ne_eq, not_true_eq_false, false_and, BitVec.reduceEq, if_true, if_false,
      not_false_eq_true]
    rfl
  · by_cases h2 : g.kind = 2#8
    · simp [h2]
    · by_cases h3 : g.kind = 3#8
      · simp [h3]
      · simp [h1, h2, h3]

end

/-! ### The first segment that fails -/

theorem startIn_zero (start : Nat) (run : List WireSegment) : startIn start run 0 = start := rfl

theorem startIn_cons (start : Nat) (g : WireSegment) (rest : List WireSegment) (k : Nat) :
    startIn start (g :: rest) (k + 1) = startIn (wireEnd g) rest k := by
  cases k <;> rfl

theorem segmentPasses_head {duration start : Nat} {g : WireSegment} {rest : List WireSegment}
    (h : segmentPasses duration start (g :: rest) 0) : segmentReason duration start g = none := by
  rw [segmentReason_eq_firstFailing]
  exact firstFailing_eq_none (h g rfl)

theorem segmentPasses_succ {duration start : Nat} {g : WireSegment} {rest : List WireSegment} {k : Nat} :
    segmentPasses duration start (g :: rest) (k + 1) ↔ segmentPasses duration (wireEnd g) rest k := by
  simp only [segmentPasses, startIn_cons, List.getElem?_cons_succ]

/-- The report names the first segment that fails and the first check it fails (R29). -/
theorem segmentsReport_of_failsFirst {duration start position k : Nat} {run : List WireSegment}
    {reason : Reason} (h : failsFirst duration start run k reason) :
    segmentsReport duration start position run = some ⟨reason, .segment (position + k)⟩ := by
  obtain ⟨passes, g, before, after, hg, rows, hb⟩ := h
  induction run generalizing start position k with
  | nil => simp at hg
  | cons x rest ih =>
    rw [segmentsReport_cons]
    cases k with
    | zero =>
      obtain rfl : x = g := by simpa using hg
      rw [segmentReason_eq_firstFailing, firstFailing_eq_some (by simpa only [startIn_zero] using rows) hb]
      rfl
    | succ k =>
      rw [segmentPasses_head (passes 0 (Nat.succ_pos k))]
      have := ih (k := k) (position := position + 1) (fun j hj => segmentPasses_succ.1 (passes (j + 1) (by omega)))
        (by simpa using hg) (by simpa only [startIn_cons] using rows)
      simpa [Nat.add_assoc, Nat.add_comm 1] using this

/-- With no segment failing there is no report (R29). -/
theorem segmentsReport_of_passes {duration start position : Nat} {run : List WireSegment}
    (h : ∀ k, segmentPasses duration start run k) : segmentsReport duration start position run = none := by
  induction run generalizing start position with
  | nil => rfl
  | cons g rest ih =>
    rw [segmentsReport_cons, segmentPasses_head (h 0)]
    exact ih fun k => segmentPasses_succ.1 (h (k + 1))

theorem startIn_length (start : Nat) (run : List WireSegment) :
    startIn start run run.length = runEnd start run := by
  induction run generalizing start with
  | nil => rfl
  | cons g rest ih => rw [List.length_cons, startIn_cons, runEnd_cons, ih]

/-! ### The two content checks -/

theorem CarrierKind.ofByte_isSome (b : Byte) : (CarrierKind.ofByte b).isSome = true ↔ 1 ≤ b.toNat ∧ b.toNat ≤ 7 := by
  constructor
  · intro h
    by_contra hn
    have : CarrierKind.ofByte b = none := by
      unfold CarrierKind.ofByte
      split <;> first | rfl | omega
    simp [this] at h
  · rintro ⟨h1, h2⟩
    unfold CarrierKind.ofByte
    interval_cases b.toNat <;> rfl

/-- The header check by its fields (R1, R2). -/
theorem headerInRange_row (h : WireHeader) : (!headerInRange h) = true ↔
    h.accession = 0#24 ∨ h.carrierKind.toNat < 1 ∨ 7 < h.carrierKind.toNat ∨ 15 < h.side.toNat ∨
      h.carrierId = 0#32 ∨ h.duration.toNat < 1 ∨ 2 ^ 36 ≤ h.duration.toNat ∨
      7 < h.restriction.toNat ∨ 5 < h.grade.toNat ∨ h.trim.toInt < -600 ∨ 120 < h.trim.toInt := by
  have accession : h.accession = 0#24 ↔ h.accession.toNat = 0 := by bv_omega
  have carrier : h.carrierId = 0#32 ↔ h.carrierId.toNat = 0 := by bv_omega
  have trim : trimInRange h.trim.toInt = true ↔ ¬(h.trim.toInt < -600 ∨ 120 < h.trim.toInt) := by
    rw [← trimInRange_row, Bool.not_eq_true', Bool.not_eq_false]
  have range : headerInRange h = true ↔ 1 ≤ h.accession.toNat ∧
      (1 ≤ h.carrierKind.toNat ∧ h.carrierKind.toNat ≤ 7) ∧ h.side.toNat ≤ 15 ∧ 1 ≤ h.carrierId.toNat ∧
      (1 ≤ h.duration.toNat ∧ h.duration.toNat ≤ 68719476735) ∧ h.restriction.toNat ≤ 7 ∧
      h.grade.toNat ≤ 5 ∧ trimInRange h.trim.toInt = true := by
    simp only [headerInRange, Bool.and_eq_true, decide_eq_true_eq, CarrierKind.ofByte_isSome, and_assoc]
  rw [Bool.not_eq_true', ← Bool.not_eq_true, range, trim, accession, carrier]
  omega

/-- The content check of WRITE ITEM with the header in range and the segments that its count announces. -/
theorem writeReport_of_count {h : WireHeader} {segments : List WireSegment}
    (hh : ¬(!headerInRange h) = true) (h1 : 1 ≤ segments.length) (h64 : segments.length ≤ 64)
    (hl : segments.length = h.segmentCount.toNat) :
    writeReport h segments = (segmentsReport h.duration.toNat 0 0 segments).or
      (if runEnd 0 segments ≠ h.duration.toNat then some ⟨.end_, .segment (segments.length - 1)⟩
        else none) := by
  have : expectedSegments h.segmentCount ≠ 0 := by
    rw [expectedSegments, if_pos (by omega)]
    omega
  unfold writeReport
  rw [if_neg hh, if_neg this]
  cases segmentsReport h.duration.toNat 0 0 segments <;> rfl

theorem amendReport_of_range {r : ItemRecord} {first k m : Nat} {run : List WireSegment}
    {old last : Segment} (h : 1 ≤ k ∧ k ≤ 64 ∧ 1 ≤ m ∧ m ≤ 64)
    (ho : r.segments[first]? = some old) (hl : r.segments[first + k - 1]? = some last) :
    amendReport r first k m run = (segmentsReport r.duration old.start 0 run).or
      (if runEnd old.start run ≠ last.start + last.length then some ⟨.amendSpan, .segment (m - 1)⟩
        else if Config.segmentLimit < r.segments.length - k + m then some ⟨.amendTotal, .arguments⟩
        else none) := by
  have within : first + k ≤ r.segments.length := by
    have := (List.getElem?_eq_some_iff.1 hl).1
    omega
  unfold amendReport
  rw [if_neg (not_not.2 ⟨h.1, h.2.1, h.2.2.1, h.2.2.2, within⟩)]
  simp only [startOf, endOf, ho, hl, Option.map_some, Option.getD_some]
  cases segmentsReport r.duration old.start 0 run <;> rfl

/-- Settles O19: the segment check is R30's table (`segmentReason_eq_firstFailing`), a run without a failing
segment tiles (`tilesFrom_of_segmentsReport`), and an amended list is cut where its run begins and ends
(`tilesFrom_cut`). -/
theorem contentChecksTile : Obligations.ContentChecksTile := by
  refine ⟨fun h segments revision hl hw => tiled_of_writeReport revision hl hw,
    fun r first k m run hr hm h => tiled_of_amendReport hr hm h, ?_, ?_⟩
  · intro s h segments bad hbad
    rw [← headerInRange_row] at hbad
    simp only [State.contentRefusal]
    refine ⟨fun hb => ?_, fun hb hcount => ?_, fun hb h1 hl h64 => ⟨fun k reason hf => ?_, fun hp => ?_⟩⟩
    · rw [writeReport, if_pos (hbad.1 hb)]
      rfl
    · have none : expectedSegments h.segmentCount = 0 := if_neg (by omega)
      rw [writeReport, if_neg (mt hbad.2 hb), if_pos none]
      rfl
    · rw [writeReport_of_count (mt hbad.2 hb) (by omega) h64 hl, segmentsReport_of_failsFirst hf, Nat.zero_add]
      rfl
    · rw [writeReport_of_count (mt hbad.2 hb) (by omega) h64 hl, segmentsReport_of_passes hp, startIn_length]
      by_cases he : runEnd 0 segments = h.duration.toNat <;> simp [he, Response.malformed, Report.bytes,
        Reason.byte, Place.byte]
  · intro s a first k m run r hr
    simp only [State.contentRefusal, hr]
    refine ⟨fun hbad => ?_, fun old last hk hk64 hm hm64 hl hold hlast => ⟨fun j reason hf => ?_, fun hp => ?_⟩⟩
    · rw [amendReport, if_pos (by omega)]
      rfl
    · rw [amendReport_of_range ⟨hk, hk64, hm, hm64⟩ hold hlast, segmentsReport_of_failsFirst hf, Nat.zero_add]
      rfl
    · rw [amendReport_of_range ⟨hk, hk64, hm, hm64⟩ hold hlast, segmentsReport_of_passes hp, ← hl,
        startIn_length]
      by_cases he : runEnd old.start run = last.start + last.length
      · by_cases ht : 64 < r.segments.length - k + run.length <;> simp [he, ht, Response.malformed,
          Report.bytes, Reason.byte, Place.byte]
      · simp [he, Response.malformed, Report.bytes, Reason.byte, Place.byte]

end Sys2Proof.Machine
end

section
/-! SUPPORT. The changes in hand kept apart, one on an item, and the segment lists that they leave (R28, R139,
R140, R161). -/

namespace Sys2Proof.Machine

/-! ### What is read of the changes in hand -/

/-- What `changesApart` reads of an entry. -/
def Entry.deferral (e : Entry) : Nat × Change × Bool := (e.accession, e.payload, e.state == .committing)

/-- Two states with the same store, the same change in flight, and the same changes deferred and being
committed. -/
def State.sameChanges (s t : State) : Prop :=
  s.sameStore t ∧ t.queue.map Entry.deferral = s.queue.map Entry.deferral

theorem State.sameChanges_refl (s : State) : s.sameChanges s := ⟨s.sameStore_refl, rfl⟩

theorem State.sameChanges.trans {s t u : State} (h : s.sameChanges t) (h' : t.sameChanges u) :
    s.sameChanges u := ⟨h.1.trans h'.1, h'.2.trans h.2⟩

theorem State.sameChanges_of_queue {s t : State} (h : s.sameStore t) (hq : t.queue = s.queue) :
    s.sameChanges t := ⟨h, by rw [hq]⟩

@[simp] theorem Entry.follow_committing (e : Entry) (n : Nat) :
    ((e.follow n).state == .committing) = (e.state == .committing) := by
  unfold Entry.follow
  split <;> first | rfl | (split <;> simp [*])

theorem Entry.deferral_follow (e : Entry) (n : Nat) : (e.follow n).deferral = e.deferral := by
  simp [Entry.deferral]

theorem map_deferral_modifyEntry {f : Entry → Entry} (hf : ∀ e, (f e).deferral = e.deferral) (a : Nat)
    (q : List Entry) : (modifyEntry a f q).map Entry.deferral = q.map Entry.deferral := by
  simp only [modifyEntry, List.map_map]
  refine List.map_congr_left fun e _ => ?_
  by_cases h : e.accession = a <;> simp [h, hf]

namespace State

theorem sameChanges_settleCounts (s : State) : s.sameChanges s.settleCounts :=
  ⟨s.sameStore_settleCounts, by
    simp only [State.settleCounts_queue, List.map_map, Function.comp_def, Entry.deferral_follow]⟩

theorem sameChanges_takeStage (s : State) (a k : Nat) : s.sameChanges (s.takeStage a k) := by
  refine ⟨s.sameStore_takeStage a k, ?_⟩
  obtain ⟨m, f, e, -⟩ := s.takeStage_eq a k
  rw [e]
  exact map_deferral_modifyEntry (f := fun e => { e with stage := k }) (fun _ => rfl) a s.queue

theorem sameChanges_reachStages (s : State) (a : Nat) : s.sameChanges (s.reachStages a) :=
  State.reachStages_keeps (P := s.sameChanges) (fun t a k h _ _ => h.trans (t.sameChanges_takeStage a k))
    (fun t h => h.trans t.sameChanges_settleCounts) a s.sameChanges_refl

theorem sameChanges_reachAllStages (s : State) : s.sameChanges s.reachAllStages :=
  State.reachAllStages_keeps (P := s.sameChanges) (fun t a k h _ _ => h.trans (t.sameChanges_takeStage a k))
    (fun t h => h.trans t.sameChanges_settleCounts) s.sameChanges_refl

theorem sameChanges_settle (s : State) : s.sameChanges s.settle :=
  State.settle_keeps (P := s.sameChanges) (fun t a k h _ _ => h.trans (t.sameChanges_takeStage a k))
    (fun t h => h.trans t.sameChanges_settleCounts) s.sameChanges_refl

theorem sameChanges_noteCommit (s : State) (c : Change) (o : CommitOutcome) (l : List ItemRecord) :
    s.sameChanges (s.noteCommit c o l) :=
  State.sameChanges_of_queue (s.sameStore_noteCommit c o l) (by simp)

theorem sameChanges_raise (s : State) (x : Notice) : s.sameChanges (s.raise x) :=
  State.sameChanges_of_queue (s.sameStore_raise x) rfl

theorem sameChanges_moveVolume (s : State) (v : Fin 64) (m : VolumeMove) :
    s.sameChanges (s.moveVolume v m) := by
  have h := s.sameCore_moveVolume v m
  exact State.sameChanges_of_queue h.sameStore h.2.2.2.2.2

theorem sameChanges_expire (s : State) (v : Fin 64) (i : Interval) : s.sameChanges (s.expire v i) := by
  have h := s.sameCore_expire v i
  exact State.sameChanges_of_queue h.sameStore h.2.2.2.2.2

theorem sameChanges_count (s : State) : s.sameChanges s.count := by
  refine ⟨s.sameStore_count, ?_⟩
  rw [State.count_queue]
  split
  · rfl
  · simp [Entry.deferral, Function.comp_def]

end State

/-! ### The changes in hand on different items -/

theorem State.changesApart_iff {s : State} : s.changesApart ↔
    (s.queue.map (·.accession)).Nodup ∧
    (∀ k ∈ s.queue.map Entry.deferral, k.2.2 = true →
      ∃ f, s.engine.inFlight = some f ∧ f.source = .queue ∧ f.change = k.2.1) ∧
    ∀ f, s.engine.inFlight = some f →
      (f.source = .direct → f.change.namesItem = true →
        ∀ k ∈ s.queue.map Entry.deferral, k.1 ≠ f.change.accession) ∧
      (f.source = .queue → ∃ k ∈ s.queue.map Entry.deferral, k.2.2 = true ∧ k.2.1 = f.change) := by
  simp [State.changesApart, Entry.deferral]

theorem State.changesApart_congr {s t : State} (h : s.sameChanges t) (hs : s.changesApart) :
    t.changesApart := by
  obtain ⟨⟨-, -, -, -, -, -, flight, -⟩, queue⟩ := h
  have accessions : t.queue.map (·.accession) = s.queue.map (·.accession) := by
    simpa [Entry.deferral, Function.comp_def] using congrArg (List.map Prod.fst) queue
  rw [State.changesApart_iff] at hs ⊢
  rw [accessions, queue, flight]
  exact hs

/-- With nothing in flight no entry is COMMITTING (R161). -/
theorem State.changesApart_of_idle {s : State} (idle : s.engine.inFlight = none)
    (apart : (s.queue.map (·.accession)).Nodup) (quiet : ∀ e ∈ s.queue, e.state ≠ .committing) :
    s.changesApart :=
  ⟨apart, fun e he h => absurd h (quiet e he), fun f hf => by simp [idle] at hf⟩

theorem State.changesApart.quiet {s : State} (h : s.changesApart) (idle : s.engine.inFlight = none) :
    ∀ e ∈ s.queue, e.state ≠ .committing := fun e he hc => by
  obtain ⟨f, hf, -⟩ := h.2.1 e he hc
  simp [idle] at hf

/-- Two entries for one accession are one entry. -/
theorem State.changesApart.eq_of_accession {s : State} (h : s.changesApart) {e x : Entry} (he : e ∈ s.queue)
    (hx : x ∈ s.queue) (ha : x.accession = e.accession) : x = e :=
  List.inj_on_of_nodup_map h.1 hx he ha

/-- An entry that is not COMMITTING leaves (R150, R176). -/
theorem State.changesApart_removeEntry {s : State} {e : Entry} (hs : s.changesApart) (he : e ∈ s.queue)
    (hc : e.state ≠ .committing) : (s.removeEntry e.accession).changesApart := by
  have only := fun x hx => hs.eq_of_accession he (x := x) hx
  obtain ⟨apart, committing, flight⟩ := hs
  refine ⟨(List.filter_sublist.map _).nodup apart, fun x hx => committing x (List.mem_filter.1 hx).1,
    fun f hf => ?_⟩
  obtain ⟨direct, queued⟩ := flight f hf
  refine ⟨fun hd hn x hx => direct hd hn x (List.mem_filter.1 hx).1, fun hq => ?_⟩
  obtain ⟨x, hx, hxc, hxp⟩ := queued hq
  refine ⟨x, List.mem_filter.2 ⟨hx, by simpa using fun ha => hc (only x hx ha ▸ hxc)⟩, hxc, hxp⟩

/-- A READY entry taken becomes the COMMITTING one, and its change the change in flight (R150). -/
theorem State.changesApart_take {s : State} {e : Entry} (hs : s.changesApart)
    (idle : s.engine.inFlight = none) (he : e ∈ s.queue) :
    ((s.withQueue (modifyEntry e.accession (fun x => { x with state := .committing })
      s.queue)).startCommit e.payload .queue).changesApart := by
  have only := fun x hx => hs.eq_of_accession he (x := x) hx
  have quiet := hs.quiet idle
  refine ⟨?_, fun y hy hyc => ⟨_, rfl, rfl, ?_⟩, fun f hf => ⟨fun hd => ?_, fun _ => ?_⟩⟩
  · simpa [modifyEntry_accessions (f := fun x : Entry => { x with state := .committing })
      (fun _ => rfl)] using hs.1
  · obtain ⟨x, hx, rfl⟩ := List.mem_map.1 (show y ∈ modifyEntry e.accession _ s.queue from hy)
    by_cases ha : x.accession = e.accession
    · simp [only x hx ha]
    · rw [if_neg ha] at hyc
      exact absurd hyc (quiet x hx)
  · cases hf; cases hd
  · cases hf
    exact ⟨{ e with state := .committing },
      List.mem_map.2 ⟨e, he, by simp⟩, rfl, rfl⟩

theorem State.changesApart_startCommit {s : State} {c : Change} (hs : s.changesApart)
    (idle : s.engine.inFlight = none)
    (free : c.namesItem = true → ∀ e ∈ s.queue, e.accession ≠ c.accession) :
    (s.startCommit c .direct).changesApart := by
  refine ⟨hs.1, fun e he hc => absurd hc (hs.quiet idle e he), fun f hf => ?_⟩
  cases hf
  exact ⟨fun _ => free, fun h => by cases h⟩

theorem State.changesApart_joined {s : State} {c : Change} (hs : s.changesApart)
    (hn : c.namesItem = true) (free : ∀ e ∈ s.queue, e.accession ≠ c.accession)
    (clear : s.blockedByFlight c = false) : (s.joined c).changesApart := by
  obtain ⟨apart, committing, flight⟩ := hs
  refine ⟨?_, fun e he hc => ?_, fun f hf => ⟨fun hd hf' e he => ?_, fun hq => ?_⟩⟩
  · simp only [State.joined, State.withIndex_queue, State.withQueue_queue, List.map_append,
      List.nodup_append, List.map_cons, List.map_nil]
    refine ⟨apart, List.nodup_singleton _, fun x hx y hy => ?_⟩
    obtain ⟨e, he, rfl⟩ := List.mem_map.1 hx
    exact List.mem_singleton.1 hy ▸ free e he
  · rcases List.mem_append.1 he with he | he
    · exact committing e he hc
    · rw [List.mem_singleton.1 he] at hc
      cases hc
  · rcases List.mem_append.1 he with he | he
    · exact (flight f hf).1 hd hf' e he
    · rw [List.mem_singleton.1 he]
      exact ((State.blockedByFlight_eq_false clear hf).2 hn hf').symm
  · obtain ⟨e, he, h⟩ := (flight f hf).2 hq
    exact ⟨e, List.mem_append_left _ he, h⟩

/-- The entries that stay when a change in flight ends: all, or all but the change's own (R144, R146). -/
def State.released (s : State) (f : InFlight) : List Entry :=
  s.queue.filter fun e => decide (f.source = .direct ∨ e.accession ≠ f.change.accession)

theorem State.releaseEntry_queue (s : State) (f : InFlight) : (s.releaseEntry f).queue = s.released f := by
  rcases s.releaseEntry_cases f with ⟨hd, e⟩ | ⟨hq, e⟩ <;> rw [e]
  · simp [State.released, hd]
  · simp [State.released, hq]

theorem map_deferral_install (s : State) (c : Change) :
    (s.install c).queue.map Entry.deferral = s.queue.map Entry.deferral := by
  by_cases hc : c.kind = .clearHoldings
  · obtain rfl : c = .clearHoldings := by cases c <;> simp_all [Change.kind]
    simp only [State.install, State.dropRemoved_eq, State.settleCounts_queue, List.map_map,
      Function.comp_def, Entry.deferral_follow]
    rfl
  · rw [State.install_of_ne hc]
    rfl

theorem map_deferral_released {s t : State} (f : InFlight)
    (h : t.queue.map Entry.deferral = s.queue.map Entry.deferral) :
    (t.released f).map Entry.deferral = (s.released f).map Entry.deferral := by
  have : ∀ q : List Entry, (q.filter fun e => decide (f.source = .direct ∨ e.accession ≠
      f.change.accession)).map Entry.deferral = (q.map Entry.deferral).filter fun k =>
        decide (f.source = .direct ∨ k.1 ≠ f.change.accession) := fun q => by
    rw [List.filter_map]; rfl
  rw [State.released, State.released, this, this, h]

theorem State.completed_inFlight (s : State) (f : InFlight) : (s.completed f).engine.inFlight = none := by
  simp [State.completed]

theorem map_deferral_completed (s : State) (f : InFlight) :
    (s.completed f).queue.map Entry.deferral = (s.released f).map Entry.deferral := by
  simp only [State.completed, State.raise_queue, State.noteCommit_queue, State.releaseEntry_queue]
  exact map_deferral_released f (map_deferral_install s f.change)

theorem State.storeFaulted_inFlight (s : State) (f : InFlight) :
    (s.storeFaulted f).engine.inFlight = none := by
  simp [State.storeFaulted, State.returned]

theorem map_deferral_storeFaulted (s : State) (f : InFlight) :
    (s.storeFaulted f).queue.map Entry.deferral = (s.released f).map Entry.deferral := by
  simp only [State.storeFaulted, State.raise_queue, State.noteCommit_queue, State.releaseEntry_queue]
  exact map_deferral_released f rfl

/-- The COMMITTING entry is the change in flight's, and leaves with it. -/
theorem State.quiet_released {s : State} {f : InFlight} (hs : s.storeSound) (ha : s.changesApart)
    (hf : s.engine.inFlight = some f) : ∀ e ∈ s.released f, e.state ≠ .committing := fun e he hc => by
  obtain ⟨member, hr⟩ := List.mem_filter.1 he
  obtain ⟨g, hg, hq, hp⟩ := ha.2.1 e member hc
  obtain rfl : g = f := Option.some.inj (hg.symm.trans hf)
  have named := (hs.2.1.2.2 e member).1
  simp [hq, named, hp] at hr

/-- No entry that stays names the item of the change that ends. -/
theorem State.released_accession {s : State} {f : InFlight} (ha : s.changesApart)
    (hf : s.engine.inFlight = some f) (hn : f.change.namesItem = true) :
    ∀ e ∈ s.released f, e.accession ≠ f.change.accession := fun e he => by
  obtain ⟨he, hr⟩ := List.mem_filter.1 he
  rcases of_decide_eq_true hr with hd | h
  · exact (ha.2.2 f hf).1 hd hn e he
  · exact h

/-- A completing change reaches no record of an entry that stays (R139, R140). -/
theorem State.record_of_released {s : State} {f : InFlight} (hs : s.storeSound) (ha : s.changesApart)
    (hf : s.engine.inFlight = some f) : ∀ e ∈ s.released f,
      findRecord (f.change.applyRecords s.store.records) e.accession =
        findRecord s.store.records e.accession := fun e he => by
  by_cases hn : f.change.namesItem = true
  · exact Change.findRecord_applyRecords_other hn (State.released_accession ha hf hn e he)
  · obtain ⟨-, -, -, clear, -⟩ := hs.2.1.2.1 f hf
    cases hc : f.change <;> simp only [hc, Change.namesItem, not_true_eq_false] at hn
    · simp [State.released, clear (by rw [hc]; rfl)] at he
    · rfl

theorem State.changesApart_of_released {s t : State} {f : InFlight} (hs : s.storeSound)
    (ha : s.changesApart) (hf : s.engine.inFlight = some f) (idle : t.engine.inFlight = none)
    (hq : t.queue.map Entry.deferral = (s.released f).map Entry.deferral) : t.changesApart := by
  refine State.changesApart_of_idle idle ?_ fun e he hc => ?_
  · have := congrArg (List.map Prod.fst) hq
    simp only [List.map_map, Function.comp_def, Entry.deferral] at this
    rw [this]
    exact (List.filter_sublist.map _).nodup ha.1
  · have := List.mem_map_of_mem (f := Entry.deferral) he
    rw [hq] at this
    obtain ⟨x, hx, e'⟩ := List.mem_map.1 this
    refine State.quiet_released hs ha hf x hx ?_
    simpa [Entry.deferral, hc] using congrArg (·.2.2) e'

/-! ### The segment lists -/

/-- The segment lists that stand and those that the changes in hand will leave. -/
def State.listsKept (s : State) : Prop :=
  (∀ r ∈ s.store.records, r.listed) ∧
    (∀ f, s.engine.inFlight = some f → f.change.fits s.store.records) ∧
    ∀ e ∈ s.queue, e.payload.fits s.store.records

theorem State.listsSound_iff {s : State} :
    s.listsSound ↔ s.storeSound ∧ s.changesApart ∧ s.listsKept := Iff.rfl

theorem State.listsKept_congr {s t : State} (h : s.sameChanges t) (hs : s.listsKept) : t.listsKept := by
  obtain ⟨⟨-, records, -, -, -, -, flight, -⟩, queue⟩ := h
  obtain ⟨lists, fits, queued⟩ := hs
  rw [State.listsKept, records, flight]
  refine ⟨lists, fits, fun e he => ?_⟩
  have := List.mem_map_of_mem (f := Entry.deferral) he
  rw [queue] at this
  obtain ⟨x, hx, e'⟩ := List.mem_map.1 this
  have : x.payload = e.payload := congrArg (·.2.1) e'
  exact this ▸ queued x hx

theorem State.listsSound_congr {s t : State} (h : s.sameChanges t) (hs : s.listsSound) : t.listsSound :=
  ⟨State.storeSound_congr h.1 hs.1, State.changesApart_congr h hs.2.1, State.listsKept_congr h hs.2.2⟩

/-- A change still fits while its own record stands as it was. -/
theorem Change.fits_congr {c : Change} {l l' : List ItemRecord}
    (h : findRecord l' c.accession = findRecord l c.accession) (hc : c.fits l) : c.fits l' := by
  cases c with
  | amendSegments a first k m run =>
    simp only [Change.fits, Change.accession] at hc h ⊢
    rwa [h]
  | certifyItem a =>
    simp only [Change.fits, Change.accession] at hc h ⊢
    rwa [h]
  | _ => exact hc

/-- A change that fits leaves its record with its list (R7, R28, R32). -/
theorem Change.revise_listed {c : Change} {l : List ItemRecord} {r r' : ItemRecord} (hc : c.fits l)
    (hr : findRecord l c.accession = some r) (hl : r.listed) (h : c.revise r = some r') : r'.listed := by
  obtain ⟨tiled, withdrawn⟩ := hl
  cases c <;> simp only [Change.revise, Option.some.injEq, reduceCtorEq] at h
  case writeItem h' segments =>
    subst h
    exact ⟨fun _ => tiled_of_writeReport _ hc.1 hc.2, fun hw => by cases hw⟩
  case amendSegments a first k m run =>
    subst h
    have passes := hc.2 r hr
    obtain ⟨⟨hk, -, -, -, hlen⟩, -⟩ := amendReport_eq_none passes
    have active : r.state ≠ .withdrawn := fun hw => by
      rw [withdrawn hw, List.length_nil] at hlen
      omega
    exact ⟨fun _ => tiled_of_amendReport (tiled active) hc.1 passes, fun hw => absurd hw active⟩
  case setItemFields => subst h; exact ⟨tiled, withdrawn⟩
  case certifyItem =>
    subst h
    have active := hc r hr
    exact ⟨fun _ => tiled (by simp [active]), fun hw => by cases hw⟩
  case retireItem => subst h; exact ⟨fun hw => absurd rfl hw, fun _ => rfl⟩
  case clearHoldings | storeSettings => subst h; exact ⟨tiled, withdrawn⟩

theorem Change.applyRecords_none {c : Change} {l : List ItemRecord} (hc : c.namesItem = true)
    (hk : c.kind ≠ .writeItem) (hr : findRecord l c.accession = none) :
    findRecord (c.applyRecords l) c.accession = none := by
  by_cases hp : c.kind = .purgeItem
  · cases c <;> simp only [Change.kind, reduceCtorEq] at hp
    exact Change.findRecord_applyRecords_purge _ _
  · obtain ⟨f, hf, -, e⟩ := Change.applyRecords_modify hc hp (records := l) fun h => absurd h hk
    rw [e, findRecord_modifyRecord hf, if_pos rfl, hr]
    rfl

/-- A change that fits leaves every record with its list. -/
theorem Change.applyRecords_listed {c : Change} {l : List ItemRecord}
    (order : l.Pairwise fun a b => a.accession < b.accession) (hc : c.fits l)
    (hl : ∀ r ∈ l, r.listed) : ∀ r ∈ c.applyRecords l, r.listed := by
  intro r hr
  by_cases hn : c.namesItem = true
  · have found := findRecord_of_mem (c.applyRecords_pairwise order) hr
    by_cases ha : r.accession = c.accession
    · rw [ha] at found
      cases hs : findRecord l c.accession with
      | some r₀ =>
        rw [Change.findRecord_applyRecords_self hn hs] at found
        exact Change.revise_listed hc hs (hl r₀ (findRecord_mem hs)) found
      | none =>
        by_cases hk : c.kind = .writeItem
        · cases c <;> simp only [Change.kind, reduceCtorEq] at hk
          rw [Change.accession, Change.findRecord_applyRecords_create hs] at found
          cases found
          exact ⟨fun _ => tiled_of_writeReport _ hc.1 hc.2, fun hw => by cases hw⟩
        · rw [Change.applyRecords_none hn hk hs] at found
          cases found
    · rw [Change.findRecord_applyRecords_other hn ha] at found
      exact hl r (findRecord_mem found)
  · cases c <;> simp only [Change.namesItem, not_true_eq_false] at hn
    · exact hl r (List.mem_filter.1 hr).1
    · exact hl r hr

/-- A change that a command asked for and that passed its checks fits the records (R136, R137). -/
theorem State.fits_of_passesChecks {s : State} {c : Change} {strict : Bool} (framed : c.framed)
    (checks : s.passesChecks c strict) : c.fits s.store.records := by
  obtain ⟨-, -, record, content, -⟩ := checks
  cases c with
  | writeItem h segments => exact ⟨framed, by simpa [State.contentRefusal] using content⟩
  | amendSegments a first k m run =>
    obtain ⟨r, hr⟩ := Option.isSome_iff_exists.1
      (State.record_of_recordRefusal record rfl (by simp [Change.kind]))
    have passes : amendReport r first k m run = none := by
      simpa [State.contentRefusal, show s.record? a = some r from hr] using content
    obtain ⟨⟨-, -, h1, h64, -⟩, -⟩ := amendReport_eq_none passes
    refine ⟨framed h1 h64, fun r' hr' => ?_⟩
    rwa [← Option.some.inj (hr.symm.trans hr')]
  | certifyItem a =>
    intro r hr
    simp only [State.recordRefusal, State.record?, Change.accession, hr, Option.map_some] at record
    cases hst : r.state <;> simp [hst, recordStateRefusal] at record ⊢
  | _ => trivial

namespace State

variable {s : State}

theorem listsSound_removeEntry {e : Entry} (hs : s.listsSound) (he : e ∈ s.queue)
    (hc : e.state ≠ .committing) : (s.removeEntry e.accession).listsSound := by
  obtain ⟨store, apart, lists, fits, queued⟩ := hs
  exact ⟨State.storeSound_removeEntry _ store, State.changesApart_removeEntry apart he hc, lists, fits,
    fun x hx => queued x (List.mem_filter.1 hx).1⟩

theorem mem_of_oldestReady {e : Entry} (he : s.oldestReady = some e) :
    e ∈ s.queue ∧ e.state = .ready :=
  ⟨List.mem_of_find?_eq_some he, by simpa using List.find?_some he⟩

theorem listsSound_proceed (hs : s.listsSound) : s.proceed.listsSound := by
  refine State.proceed_keeps (fun s e o hs _ he _ => ?_) (fun s e hs hm he hr => ?_) hs
  · obtain ⟨member, ready⟩ := State.mem_of_oldestReady he
    exact State.listsSound_congr ((State.sameChanges_noteCommit _ _ _ _).trans (State.sameChanges_raise _ _))
      (State.listsSound_removeEntry hs member (by simp [ready]))
  · obtain ⟨member, -⟩ := State.mem_of_oldestReady he
    obtain ⟨store, apart, lists, -, queued⟩ := hs
    refine ⟨State.storeSound_take store hm he hr,
      State.changesApart_take apart (State.mayTake_eq_true.1 hm).1 member, lists, fun f hf => ?_,
      fun x hx => ?_⟩
    · cases hf
      exact queued e member
    · obtain ⟨y, hy, rfl⟩ := List.mem_map.1 (show x ∈ modifyEntry e.accession _ s.queue from hx)
      by_cases ha : y.accession = e.accession <;> simp only [ha, if_true, if_false] <;> exact queued y hy

theorem listsSound_acceptChange {c : Change} (hs : s.listsSound) (started : s.starting = false)
    (framed : c.framed) (strict : Bool) : (s.acceptChange c strict).1.listsSound := by
  have whole := State.storeSound_acceptChange c strict hs.1 started
  obtain ⟨store, apart, lists, fits, queued⟩ := hs
  rcases s.acceptChange_cases c strict with e | ⟨checks, free, hd, -, -, e⟩ | ⟨checks, idle, -, -, -, e⟩
  · rw [e]
    exact ⟨store, apart, lists, fits, queued⟩
  · rw [e, State.join_eq]
    have hn := Change.namesItem_of_deferrable hd
    have joined : (s.joined c).listsSound := by
      refine ⟨State.storeSound_joined store started checks free hd,
        State.changesApart_joined apart hn (State.entryRefusal_eq_false hn checks.2.2.2.2) free, lists,
        fits, fun x hx => ?_⟩
      rcases List.mem_append.1 hx with hx | hx
      · exact queued x hx
      · rw [List.mem_singleton.1 hx]
        exact State.fits_of_passesChecks (s := s) framed checks
    exact State.listsSound_proceed (State.listsSound_congr (State.sameChanges_reachStages _ _) joined)
  · rw [e] at whole ⊢
    refine ⟨whole, State.changesApart_startCommit apart idle fun hn =>
      State.entryRefusal_eq_false hn checks.2.2.2.2, lists, fun f hf => ?_, queued⟩
    cases hf
    exact State.fits_of_passesChecks framed checks

theorem listsSound_startUp {store : Store} (pending : List Instr) (selectLow : Bool) (k : Nat)
    (sound : (State.startUp pending selectLow store k).storeSound) (lists : ∀ r ∈ store.records, r.listed) :
    (State.startUp pending selectLow store k).listsSound :=
  ⟨sound, State.changesApart_of_idle rfl List.nodup_nil (List.forall_mem_nil _), lists,
    fun _ hf => absurd hf (by simp [State.startUp, Engine.afterReset]), List.forall_mem_nil _⟩

theorem listsSound_softReset (hs : s.listsSound) : s.softReset.listsSound :=
  State.listsSound_startUp _ _ _ (State.storeSound_softReset hs.1) hs.2.2.1

theorem listsSound_completed {f : InFlight} (hs : s.listsSound) (hf : s.engine.inFlight = some f) :
    (s.completed f).listsSound := by
  have sound := State.storeSound_completed hs.1 hf
  obtain ⟨store, apart, lists, fits, queued⟩ := hs
  have idle := s.completed_inFlight f
  have records : (s.completed f).store.records = f.change.applyRecords s.store.records := by
    simp [State.completed, (s.install_core f.change).2.1, Change.applyStore]
  refine ⟨sound, State.changesApart_of_released store apart hf idle (map_deferral_completed s f),
    ?_, fun g hg => by simp [idle] at hg, fun e he => ?_⟩
  · rw [records]
    exact Change.applyRecords_listed store.1.1 (fits f hf) lists
  · have := List.mem_map_of_mem (f := Entry.deferral) he
    rw [map_deferral_completed] at this
    obtain ⟨x, hx, e'⟩ := List.mem_map.1 this
    have hp : x.payload = e.payload := congrArg (·.2.1) e'
    have member := (List.mem_filter.1 hx).1
    rw [records, ← hp]
    refine Change.fits_congr ?_ (queued x member)
    rw [← (store.2.1.2.2 x member).1]
    exact State.record_of_released store apart hf x hx

theorem listsSound_storeFaulted {f : InFlight} (hs : s.listsSound) (hf : s.engine.inFlight = some f) :
    (s.storeFaulted f).listsSound := by
  have sound := State.storeSound_storeFaulted hs.1 hf
  obtain ⟨store, apart, lists, fits, queued⟩ := hs
  have idle := s.storeFaulted_inFlight f
  have records : (s.storeFaulted f).store.records = s.store.records := by
    simp [State.storeFaulted, State.returned]
  refine ⟨sound, State.changesApart_of_released store apart hf idle (map_deferral_storeFaulted s f),
    records ▸ lists, fun g hg => by simp [idle] at hg, fun e he => ?_⟩
  have := List.mem_map_of_mem (f := Entry.deferral) he
  rw [map_deferral_storeFaulted] at this
  obtain ⟨x, hx, e'⟩ := List.mem_map.1 this
  have hp : x.payload = e.payload := congrArg (·.2.1) e'
  exact records ▸ hp ▸ queued x (List.mem_filter.1 hx).1

theorem listsSound_hardReset (hs : s.listsSound) (mark : Bool) : (s.hardReset mark).listsSound := by
  have lists : ∀ r ∈ (s.storeAtHardReset mark).records, r.listed := by
    unfold State.storeAtHardReset
    split
    · exact hs.2.2.1
    · split
      · exact Change.applyRecords_listed hs.1.1.1 (hs.2.2.2.1 _ ‹_›) hs.2.2.1
      · exact hs.2.2.1
  have := State.listsSound_startUp s.pending false s.openValues
    (State.storeSound_hardStartUp hs.1 _ _ _ mark) lists
  exact State.listsSound_congr ⟨⟨rfl, rfl, rfl, rfl, rfl, rfl, rfl, rfl⟩, rfl⟩ this

theorem listsSound_scanComplete (hs : s.listsSound) (starting : s.starting = true) :
    s.scanComplete.listsSound :=
  ⟨State.storeSound_scanComplete hs.1 starting, hs.2⟩

theorem listsSound_setting (hs : s.listsSound) (name : SettingName) (v : Fin 64) (x : Nat) :
    ((s.withSettings (s.settings.write v x name)).settingActs name v).listsSound := by
  have written : (s.withSettings (s.settings.write v x name)).listsSound := hs
  cases name
  case tHold1 | tHold2 | tHold3 =>
    exact State.listsSound_proceed (State.listsSound_congr (State.sameChanges_reachAllStages _) written)
  all_goals exact written

theorem listsSound_tick (hs : s.listsSound) : s.tick.listsSound :=
  State.tick_keeps (P := State.listsSound) (fun _ _ _ h => State.listsSound_congr (State.sameChanges_expire _ _ _) h)
    (fun _ h => State.listsSound_congr (State.sameChanges_count _) h)
    (fun _ h => State.listsSound_congr (State.sameChanges_reachAllStages _) h)
    (fun _ h => State.listsSound_proceed h) hs

end State

theorem listsSound_kept : Kept State.listsSound where
  pending _ _ h := h
  pins _ _ h := h
  link _ _ h := h
  condition _ _ h := h
  resetPending _ h _ := h
  change _ _ _ h hr hc := State.listsSound_acceptChange h hr.2.1 hc.1 _
  pathWork s n c m r h _ _ _ := State.listsSound_proceed (State.listsSound_congr
    (State.sameChanges_settle (((s.setCursor n c).withNotices m).withResolution r)) h)
  loop _ _ _ h _ _ _ := h
  cancel _ _ h _ he hc := State.listsSound_removeEntry h (List.mem_of_find?_eq_some he) hc
  freeze _ h _ _ := h
  thaw s h _ _ := State.listsSound_proceed (State.listsSound_congr
    (State.sameChanges_reachAllStages (s.withEngine { s.engine with frozen := false })) h)
  volume _ _ _ h _ _ := State.listsSound_congr (State.sameChanges_moveVolume _ _ _) h
  expire _ _ _ h := State.listsSound_congr (State.sameChanges_expire _ _ _) h
  arm _ h _ := h
  takeNotices _ h _ := h
  enable _ _ _ h _ := h
  setting _ _ _ _ h _ _ := State.listsSound_setting h _ _ _
  hardReset _ _ h := State.listsSound_hardReset h _
  restart s _ h := State.listsSound_startUp _ _ _
    (State.storeSound_startUp _ _ _ h.1.1.1 h.1.fits.1 h.1.fits.2) h.2.2.1
  scan _ h hst := State.listsSound_scanComplete h hst
  fail s f h hf := by
    rw [State.failStore_eq]
    exact State.afterCompletion_keeps State.listsSound_softReset State.listsSound_proceed
      (State.listsSound_storeFaulted h hf)
  proceed _ h := State.listsSound_proceed h
  tick _ h := State.listsSound_tick h
  stage _ _ h := State.listsSound_proceed (State.listsSound_congr (State.sameChanges_reachStages _ _) h)

theorem State.listsSound_complete {s : State} {f : InFlight} (hs : s.listsSound)
    (hf : s.engine.inFlight = some f) : (s.complete f).listsSound := by
  rw [State.complete_eq]
  exact State.afterCompletion_keeps State.listsSound_softReset State.listsSound_proceed
    (State.listsSound_completed hs hf)

/-- Settles O58: a change that passed its checks still fits its record when it completes, since no two changes
in hand are on one item, and what fits leaves a tiled list (`Change.applyRecords_listed`). -/
theorem tilingInvariant : Obligations.TilingInvariant :=
  fun _ _ hs ht => listsSound_kept.step (fun _ _ h hf => State.listsSound_complete h hf) hs ht

end Sys2Proof.Machine
end

section
/-! SUPPORT. The deferral queue against the pending fields, the use counts, the engine and the clock (R4, R159,
R161, R167). -/

namespace Sys2Proof.Machine

/-! ### The pending fields -/

/-- What `pendingExact` reads of the index. -/
def Index.pendings (ix : Index) : List (Nat × Bool) := ix.entries.map fun x => (x.accession, x.pending)

theorem State.pendingExact_iff {s : State} : s.pendingExact ↔ (s.starting = false →
    ∀ k ∈ s.index.pendings, (k.2 = true ↔ k.1 ∈ s.queue.map (·.accession))) := by
  simp only [State.pendingExact, Index.pendings, List.forall_mem_map]
  refine imp_congr_right fun _ => forall₂_congr fun x _ => ?_
  rw [Bool.eq_iff_iff]
  simp

/-- The pending fields, the accessions in the queue, and whether the part has started, as they were. -/
theorem State.pendingExact_congr {s t : State} (h : t.starting = s.starting)
    (hp : t.index.pendings = s.index.pendings)
    (hq : t.queue.map (·.accession) = s.queue.map (·.accession)) (hs : s.pendingExact) :
    t.pendingExact := by
  rw [State.pendingExact_iff] at hs ⊢
  rw [h, hp, hq]
  exact hs

@[simp] theorem Index.pendings_counted (ix : Index) (cursors : Table Cursor 16) :
    (ix.counted cursors).pendings = ix.pendings := by
  simp [Index.pendings, Index.counted, Function.comp_def]

theorem map_accession_of_deferral {q q' : List Entry} (h : q'.map Entry.deferral = q.map Entry.deferral) :
    q'.map (·.accession) = q.map (·.accession) := by
  simpa [Entry.deferral, Function.comp_def] using congrArg (List.map Prod.fst) h

/-- Reaching stages, and settling the counts, write no pending field. -/
theorem State.pendings_reachStages (s : State) (a : Nat) :
    (s.reachStages a).index.pendings = s.index.pendings :=
  State.reachStages_keeps (P := fun t => t.index.pendings = s.index.pendings)
    (fun t a k h _ _ => by
      obtain ⟨m, f, e, -⟩ := t.takeStage_eq a k
      rw [e]
      exact h)
    (fun t h => by rw [State.settleCounts_index, Index.pendings_counted, h]) a rfl

theorem State.pendingExact_settleCounts {s : State} (hs : s.pendingExact) : s.settleCounts.pendingExact :=
  State.pendingExact_congr (s := s) rfl (by simp) (by simp [Function.comp_def]) hs

theorem State.pendingExact_reachStages {s : State} (a : Nat) (hs : s.pendingExact) :
    (s.reachStages a).pendingExact :=
  State.pendingExact_congr (by simp) (s.pendings_reachStages a)
    (map_accession_of_deferral (s.sameChanges_reachStages a).2) hs

/-- The pending field of one accession written. -/
theorem Index.mem_pendings_setPending {ix : Index} {a : Nat} {value : Bool} {k : Nat × Bool}
    (h : k ∈ (ix.setPending a value).pendings) :
    (k.1 = a ∧ k.2 = value) ∨ (k.1 ≠ a ∧ k ∈ ix.pendings) := by
  simp only [Index.pendings, Index.setPending, List.map_map, List.mem_map, Function.comp_apply] at h ⊢
  obtain ⟨x, hx, rfl⟩ := h
  by_cases ha : x.accession = a
  · exact .inl (by simp [ha])
  · exact .inr ⟨by simp [ha], x, hx, by simp [ha]⟩

theorem State.pendingExact_removeEntry {s : State} (a : Nat) (hs : s.pendingExact) :
    (s.removeEntry a).pendingExact := by
  rw [State.pendingExact_iff] at hs ⊢
  intro started k hk
  have stays : ∀ b, b ∈ (s.removeEntry a).queue.map (·.accession) ↔
      b ≠ a ∧ b ∈ s.queue.map (·.accession) := fun b => by
    simp only [State.removeEntry_queue, List.mem_map, List.mem_filter, decide_eq_true_eq]
    aesop
  rcases Index.mem_pendings_setPending hk with ⟨ha, hv⟩ | ⟨ha, hk⟩
  · simp [ha, hv]
  · rw [stays, hs started k hk]
    simp [ha]

theorem State.pendingExact_joined {s : State} {c : Change} (hs : s.pendingExact) :
    (s.joined c).pendingExact := by
  rw [State.pendingExact_iff] at hs ⊢
  intro started k hk
  have joined : ∀ b, b ∈ (s.joined c).queue.map (·.accession) ↔
      b = c.accession ∨ b ∈ s.queue.map (·.accession) := fun b => by
    simp [State.joined, or_comm]
  rcases Index.mem_pendings_setPending hk with ⟨ha, hv⟩ | ⟨ha, hk⟩
  · simp [joined, ha, hv]
  · rw [joined, hs started k hk]
    simp [ha]

theorem State.pendingExact_releaseEntry {s : State} (f : InFlight) (hs : s.pendingExact) :
    (s.releaseEntry f).pendingExact := by
  rcases s.releaseEntry_cases f with ⟨-, e⟩ | ⟨-, e⟩ <;> rw [e]
  · exact hs
  · exact State.pendingExact_removeEntry _ hs

/-- The index rebuilt for a new version keeps each pending field, and gives a record that had none the value
no (R13, R144). -/
theorem mem_pendings_advanced {ix : Index} {c : Change} {old new : List ItemRecord} {k : Nat × Bool}
    (h : k ∈ (ix.advanced c old new).pendings) :
    k ∈ ix.pendings ∨ (k.2 = false ∧ k.1 ∉ ix.entries.map (·.accession)) := by
  simp only [Index.pendings, Index.advanced, entriesOf, List.map_map, List.mem_map,
    Function.comp_apply] at h ⊢
  obtain ⟨r, -, rfl⟩ := h
  cases he : ix.entry? r.accession with
  | none =>
    refine .inr ⟨rfl, ?_⟩
    rintro ⟨x, hx, ha⟩
    have := List.find?_eq_none.1 he x hx
    simp at this ha
    exact this ha
  | some x => exact .inl ⟨x, List.mem_of_find?_eq_some he, rfl⟩

/-- The new version in force: every entry in the queue is on a record that stood, whose pending field is
kept (R4, R144). -/
theorem State.pendingExact_installed {s : State} (f : InFlight) (store : s.storeSound)
    (hs : s.pendingExact) : (s.install f.change).pendingExact := by
  have core := s.install_core f.change
  have pendings : (s.install f.change).index.pendings =
      (s.index.advanced f.change s.store.records (f.change.applyRecords s.store.records)).pendings := by
    by_cases hc : f.change.kind = .clearHoldings
    · obtain hc : f.change = .clearHoldings := by cases h : f.change <;> simp_all [Change.kind]
      simp only [hc, State.install, State.dropRemoved_eq, State.settleCounts_index, Index.pendings_counted]
      rfl
    · rw [State.install_of_ne hc]
      rfl
  have queue := map_accession_of_deferral (map_deferral_install s f.change)
  rw [State.pendingExact_iff] at hs ⊢
  intro started k hk
  rw [core.1] at started
  rw [pendings] at hk
  rw [queue]
  rcases mem_pendings_advanced hk with hk | ⟨hv, ha⟩
  · exact hs started k hk
  · simp only [hv, Bool.false_eq_true, false_iff, List.mem_map, not_exists, not_and]
    intro e he hek
    obtain ⟨-, -, stands⟩ := store.2.1.2.2 e he
    obtain ⟨r, hr, hra⟩ := findRecord_isSome.1 stands
    refine ha ?_
    rw [(store.1.2 started).1]
    exact List.mem_map.2 ⟨r, hr, hra.trans hek⟩

theorem State.pendingExact_completed {s : State} (f : InFlight) (store : s.storeSound)
    (hs : s.pendingExact) : (s.completed f).pendingExact := by
  have := State.pendingExact_releaseEntry f
    (s := (s.install f.change).withEngine { s.engine with inFlight := none })
    (State.pendingExact_installed f store hs)
  refine State.pendingExact_congr ?_ ?_ ?_ this <;> simp [State.completed]

theorem State.pendingExact_storeFaulted {s : State} (f : InFlight) (hs : s.pendingExact) :
    (s.storeFaulted f).pendingExact := by
  have := State.pendingExact_releaseEntry f (s := s.returned f) hs
  refine State.pendingExact_congr ?_ ?_ ?_ this <;> simp [State.storeFaulted]

/-- The scan finds an empty queue and rebuilds the index with every pending field no (R20). -/
theorem State.pendingExact_scanComplete {s : State} (store : s.storeSound) (starting : s.starting = true) :
    s.scanComplete.pendingExact := by
  obtain ⟨-, queue⟩ := store.2.1.1 starting
  intro _ x hx
  obtain ⟨r, -, rfl⟩ := List.mem_map.1 (show x ∈ entriesOf (Index.beforeScan s.store) s.store.records from hx)
  have : s.scanComplete.queue = [] := queue
  rw [this]
  rfl

theorem map_accession_modifyEntry_state (a : Nat) (x : EntryState) (q : List Entry) :
    (modifyEntry a (fun e => { e with state := x }) q).map (·.accession) = q.map (·.accession) :=
  modifyEntry_accessions (f := fun e : Entry => { e with state := x }) (fun _ => rfl) q

theorem State.pendingExact_proceed {s : State} (hs : s.pendingExact) : s.proceed.pendingExact :=
  State.proceed_keeps (P := State.pendingExact)
    (fun t e o h _ _ _ => State.pendingExact_congr (s := t.removeEntry e.accession) (by simp [State.lateFailure])
      (by simp [State.lateFailure]) (by simp [State.lateFailure]) (State.pendingExact_removeEntry _ h))
    (fun t e h _ _ _ => State.pendingExact_congr (s := t) rfl rfl (map_accession_modifyEntry_state _ _ _) h) hs

@[simp] theorem State.releaseEntry_settings (s : State) (f : InFlight) :
    (s.releaseEntry f).settings = s.settings := by
  rcases s.releaseEntry_cases f with ⟨-, h⟩ | ⟨-, h⟩ <;> simp [h]

/-! ### Entries against the use counts and the clock -/

/-- A WAITING entry's item is in use, and a READY entry's is not (R161). -/
def State.entriesUsed (s : State) : Prop := ∀ e ∈ s.queue,
  (e.state = .waiting → 0 < framesNaming s.cursors e.accession) ∧
    (e.state = .ready → framesNaming s.cursors e.accession = 0)

/-- No stage of an entry stands due while it is WAITING and the engine THAWED (R167). -/
def Entry.undue (e : Entry) (s : State) : Prop :=
  e.state = .waiting → s.engine.frozen = false → ∀ k, e.stage < k → k ≤ 3 → e.age < s.settings.threshold k

theorem State.entriesFollow_iff {s : State} : s.entriesFollow ↔ s.entriesUsed ∧ ∀ e ∈ s.queue, e.undue s := by
  constructor
  · exact fun h => ⟨fun e he => ⟨(h e he).1, (h e he).2.1⟩, fun e he => (h e he).2.2⟩
  · exact fun h e he => ⟨(h.1 e he).1, (h.1 e he).2, h.2 e he⟩

theorem mem_dueStages {e : Entry} {st : Settings} {k : Nat} :
    k ∈ e.dueStages st ↔ (1 ≤ k ∧ k ≤ 3) ∧ e.stage < k ∧ st.threshold k ≤ e.age := by
  simp only [Entry.dueStages, List.mem_filter, List.mem_cons, List.not_mem_nil, or_false, decide_eq_true_eq]
  omega

theorem Entry.undue_of_dueStages {e : Entry} {s : State}
    (h : e.state = .waiting → e.dueStages s.settings = []) : e.undue s := fun hw _ k hk h3 => by
  by_contra hn
  have : k ∈ e.dueStages s.settings := mem_dueStages.2 ⟨⟨by omega, h3⟩, hk, by omega⟩
  rw [h hw] at this
  cases this

/-- The entries that are no longer WAITING, or have the stage and age they had, are undue still. -/
theorem Entry.undue_congr {e e' : Entry} {s t : State} (hf : t.engine.frozen = s.engine.frozen)
    (hst : ∀ k, t.settings.threshold k = s.settings.threshold k) (hs : e'.stage = e.stage)
    (ha : e'.age = e.age) (hw : e'.state = .waiting → e.state = .waiting) (h : e.undue s) : e'.undue t := by
  intro hw' hf' k hk h3
  rw [hs] at hk
  rw [ha, hst]
  exact h (hw hw') (hf ▸ hf') k hk h3

@[simp] theorem modifyEntry_modifyEntry {f g : Entry → Entry} (hf : ∀ e, (f e).accession = e.accession) (a : Nat)
    (q : List Entry) : modifyEntry a g (modifyEntry a f q) = modifyEntry a (g ∘ f) q := by
  simp only [modifyEntry, List.map_map]
  refine List.map_congr_left fun e _ => ?_
  by_cases h : e.accession = a <;> simp [h, hf]

theorem State.takeStage_queue (s : State) (a k : Nat) :
    (s.takeStage a k).queue = modifyEntry a (fun e => { e with stage := k }) s.queue := by
  obtain ⟨m, f, e, -⟩ := s.takeStage_eq a k
  rw [e]
  rfl

/-- Stages reached in turn leave the entry at the last of them (R167). -/
theorem State.foldl_takeStage_queue (s : State) (a : Nat) (l : List Nat) (h : l ≠ []) :
    (l.foldl (fun t k => t.takeStage a k) s).queue =
      modifyEntry a (fun e => { e with stage := l.getLast h }) s.queue := by
  induction l generalizing s with
  | nil => exact absurd rfl h
  | cons k rest ih =>
    rw [List.foldl_cons]
    cases rest with
    | nil => exact s.takeStage_queue a k
    | cons j more =>
      rw [ih (s.takeStage a k) (by simp), State.takeStage_queue,
        modifyEntry_modifyEntry (f := fun e => { e with stage := k }) fun _ => rfl]
      rfl

/-- The last of the due stages is at or above every one of them. -/
theorem Entry.le_getLast_dueStages {e : Entry} {st : Settings} (h : e.dueStages st ≠ []) {k : Nat}
    (hk : k ∈ e.dueStages st) : k ≤ (e.dueStages st).getLast h := by
  have sorted : (e.dueStages st).Pairwise (· ≤ ·) :=
    List.Pairwise.filter _ (by decide : [1, 2, 3].Pairwise (· ≤ ·))
  exact sorted.rel_getLast hk

/-- What reaching an entry's stages does to the queue and the cursors: nothing, or its due stages all reached
and the counts settled over paths that have only been dropped (R161, R167). -/
theorem State.reachStages_entry (s : State) (a : Nat) :
    (s.reachStages a = s ∧ ∀ e, s.engine.frozen = false → s.entry? a = some e → e.state = .waiting →
      e.dueStages s.settings = []) ∨
    ∃ (e : Entry) (t : State), s.engine.frozen = false ∧ s.entry? a = some e ∧ e.state = .waiting ∧
      ∃ h : e.dueStages s.settings ≠ [], s.reachStages a = t.settleCounts ∧
        t.queue = modifyEntry a (fun e' => { e' with stage := (e.dueStages s.settings).getLast h }) s.queue ∧
        t.settings = s.settings ∧ t.engine = s.engine ∧ pathsWithin s.cursors t.cursors := by
  unfold State.reachStages
  split
  · rename_i hf
    exact .inl ⟨rfl, fun _ h => by simp [hf] at h⟩
  · rename_i hf
    cases he : s.entry? a with
    | none => exact .inl ⟨rfl, fun _ _ h => by cases h⟩
    | some e =>
      dsimp only
      by_cases hw : e.state = .waiting
      · rw [if_pos hw]
        cases hd : e.dueStages s.settings with
        | nil =>
          refine .inl ⟨rfl, fun x _ hx _ => ?_⟩
          cases hx
          exact hd
        | cons k rest =>
          refine .inr ⟨e, (k :: rest).foldl (fun t k => t.takeStage a k) s, by simpa using hf, rfl, hw,
            by simp [hd], rfl, ?_, ?_⟩
          · rw [State.foldl_takeStage_queue s a (k :: rest) (by simp)]
            simp only [hd]
          · exact foldl_keeps (P := fun t : State => t.settings = s.settings ∧ t.engine = s.engine ∧
              pathsWithin s.cursors t.cursors) (fun t k ⟨h1, h2, h3⟩ => ⟨by simp [h1], by simp [h2],
                h3.trans (t.takeStage_pathsWithin a k)⟩) (k :: rest) ⟨rfl, rfl, pathsWithin_refl _⟩
      · rw [if_neg hw]
        refine .inl ⟨rfl, fun x _ hx hw' => ?_⟩
        cases hx
        exact absurd hw' hw

/-- An entry that has followed its count is WAITING above 0, and READY at 0 (R161). -/
theorem Entry.follow_used (e : Entry) (n : Nat) :
    ((e.follow n).state = .waiting → 0 < n) ∧ ((e.follow n).state = .ready → n = 0) := by
  unfold Entry.follow
  cases hs : e.state with
  | waiting => by_cases hn : n = 0 <;> simp [hn, hs]; omega
  | ready => by_cases hn : 0 < n <;> simp [hn, hs]; omega
  | committing => simp [hs]

theorem State.entriesUsed_settleCounts (s : State) : s.settleCounts.entriesUsed := by
  intro x hx
  rw [State.settleCounts_queue] at hx
  obtain ⟨e, -, rfl⟩ := List.mem_map.1 hx
  rw [State.settleCounts_cursors, Entry.follow_accession]
  exact e.follow_used _

/-- An entry that is WAITING after settling was WAITING, or was READY with its item in use again (R161). -/
theorem Entry.waiting_of_follow {e : Entry} {n : Nat} (h : (e.follow n).state = .waiting) :
    e.state = .waiting ∨ (e.state = .ready ∧ 0 < n) := by
  unfold Entry.follow at h
  cases hs : e.state with
  | waiting => exact .inl rfl
  | ready =>
    by_cases hn : 0 < n
    · exact .inr ⟨rfl, hn⟩
    · simp [hs, hn] at h
  | committing => simp [hs] at h

theorem State.entry?_eq {s : State} (ha : (s.queue.map (·.accession)).Nodup) {e : Entry} (he : e ∈ s.queue) :
    s.entry? e.accession = some e := by
  unfold State.entry?
  have found : (s.queue.find? fun x => x.accession == e.accession).isSome = true :=
    List.find?_isSome.2 ⟨e, he, by simp⟩
  obtain ⟨x, hx⟩ := Option.isSome_iff_exists.1 found
  have := List.inj_on_of_nodup_map ha (List.mem_of_find?_eq_some hx) he (by simpa using List.find?_some hx)
  rw [hx, this]

/-- Reaching the stages of one entry leaves every entry in step with its count (R161). -/
theorem State.entriesUsed_reachStages {s : State} (a : Nat) (hu : s.entriesUsed) :
    (s.reachStages a).entriesUsed := by
  rcases s.reachStages_entry a with ⟨e, -⟩ | ⟨e, t, -, -, -, -, ht, -⟩
  · rw [e]; exact hu
  · rw [ht]; exact State.entriesUsed_settleCounts t

/-- It leaves none of that entry's stages due, and makes none of another's due (R161, R167). -/
theorem State.reachStages_undue {s : State} (a : Nat) (ha : (s.queue.map (·.accession)).Nodup)
    (free : ∀ e ∈ s.queue, e.state = .ready → framesNaming s.cursors e.accession = 0) :
    ∀ x ∈ (s.reachStages a).queue, (x.accession = a → x.undue (s.reachStages a)) ∧
      ∃ e ∈ s.queue, e.accession = x.accession ∧ (e.undue s → x.undue (s.reachStages a)) := by
  rcases s.reachStages_entry a with ⟨e, none⟩ | ⟨e, t, hf, he, hw, hd, ht, queue, settings, engine, within⟩
  · rw [e]
    refine fun x hx => ⟨fun hxa hw hf => ?_, x, hx, rfl, id⟩
    exact Entry.undue_of_dueStages (none x hf (hxa ▸ State.entry?_eq ha hx)) hw hf
  · rw [ht]
    intro x hx
    rw [State.settleCounts_queue, queue] at hx
    obtain ⟨y, hy, rfl⟩ := List.mem_map.1 hx
    obtain ⟨z, hz, rfl⟩ := List.mem_map.1 hy
    have frozen : t.settleCounts.engine.frozen = s.engine.frozen := by simp [engine]
    have thresholds : ∀ k, t.settleCounts.settings.threshold k = s.settings.threshold k := by simp [settings]
    by_cases hza : z.accession = a
    · have hze : z = e := Option.some.inj ((hza ▸ State.entry?_eq ha hz).symm.trans he)
      subst hze
      rw [if_pos hza]
      have undue : (({ z with stage := (z.dueStages s.settings).getLast hd } : Entry).follow
          (framesNaming t.cursors z.accession)).undue t.settleCounts := by
        intro _ _ k hk h3
        rw [Entry.follow_stage] at hk
        rw [Entry.follow_age, thresholds]
        by_contra hn
        have last := mem_dueStages.1 (List.getLast_mem hd)
        have := Entry.le_getLast_dueStages hd (k := k) (mem_dueStages.2 ⟨⟨by omega, h3⟩, by
          simp only at hk; omega, by simpa using hn⟩)
        simp only at hk
        omega
      exact ⟨fun _ => undue, z, hz, by simp, fun _ => undue⟩
    · rw [if_neg hza]
      refine ⟨fun h => absurd h (by simpa using hza), z, hz, by simp, fun h => ?_⟩
      refine Entry.undue_congr frozen thresholds (by simp) (by simp) (fun hw' => ?_) h
      rcases Entry.waiting_of_follow hw' with h | ⟨hr, hpos⟩
      · exact h
      · have := within.framesNaming_eq_zero (free z hz hr)
        omega

/-- Stages compared for a list of entries: those of the list, and those that were undue, are undue after it
(R167). -/
theorem State.foldl_reachStages_undue (l : List Nat) {s : State} (ha : (s.queue.map (·.accession)).Nodup)
    (hu : s.entriesUsed) (hl : ∀ e ∈ s.queue, e.accession ∈ l ∨ e.undue s) :
    (l.foldl State.reachStages s).entriesFollow := by
  induction l generalizing s with
  | nil => exact State.entriesFollow_iff.2 ⟨hu, fun e he => (hl e he).resolve_left (List.not_mem_nil)⟩
  | cons a rest ih =>
    have used := State.entriesUsed_reachStages a hu
    have undue := State.reachStages_undue a ha fun e he => (hu e he).2
    have accessions := map_accession_of_deferral (s.sameChanges_reachStages a).2
    refine ih (accessions ▸ ha) used fun x hx => ?_
    obtain ⟨own, e, he, hea, keep⟩ := undue x hx
    rcases hl e he with hm | h
    · rcases List.mem_cons.1 hm with h | h
      · exact .inr (own (hea ▸ h))
      · exact .inl (hea ▸ h)
    · exact .inr (keep h)

theorem State.entriesFollow_reachAllStages {s : State} (ha : (s.queue.map (·.accession)).Nodup)
    (hu : s.entriesUsed) : s.reachAllStages.entriesFollow :=
  State.foldl_reachStages_undue _ ha hu fun _ he => .inl (List.mem_map_of_mem he)

theorem State.entriesFollow_reachStages {s : State} (a : Nat) (ha : (s.queue.map (·.accession)).Nodup)
    (hu : s.entriesUsed) (h : ∀ e ∈ s.queue, e.accession ≠ a → e.undue s) :
    (s.reachStages a).entriesFollow :=
  State.foldl_reachStages_undue [a] ha hu fun e he => (em (e.accession = a)).imp (by simp) (h e he)

/-- Settling after path work: the entries that return to WAITING are compared, and the others keep the stages
and ages they had (R161, R167). -/
theorem State.entriesFollow_settle {s : State} (ha : (s.queue.map (·.accession)).Nodup)
    (h : ∀ e ∈ s.queue, e.undue s) : s.settle.entriesFollow := by
  refine State.foldl_reachStages_undue _ (by simpa [Function.comp_def] using ha)
    (State.entriesUsed_settleCounts s) fun x hx => ?_
  rw [State.settleCounts_queue] at hx
  obtain ⟨e, he, rfl⟩ := List.mem_map.1 hx
  by_cases hr : e.state = .ready ∧ 0 < framesNaming s.cursors e.accession
  · exact .inl (List.mem_map.2 ⟨e, List.mem_filter.2 ⟨he, by simp [hr]⟩, by simp⟩)
  · refine .inr (Entry.undue_congr (s := s) rfl (fun _ => rfl) (by simp) (by simp) (fun hw => ?_) (h e he))
    exact (Entry.waiting_of_follow hw).resolve_right hr

/-! ### The queue under each operation -/

/-- A queue of no more entries than before, the WAITING and READY ones as they were, over the same paths, clock
thresholds and freeze. -/
theorem State.entriesFollow_of_subset {s t : State} (hf : t.engine.frozen = s.engine.frozen)
    (hst : t.settings = s.settings) (hc : ∀ n, (t.cursors.get n).path = (s.cursors.get n).path)
    (hq : ∀ e ∈ t.queue, e.state ≠ .committing → e ∈ s.queue) (hs : s.entriesFollow) :
    t.entriesFollow := by
  intro e he
  by_cases h : e.state = .committing
  · simp [h]
  · rw [framesNaming_congr hc, hst, hf]
    exact hs e (hq e he h)

theorem State.entriesFollow_of_empty {s : State} (h : s.queue = []) : s.entriesFollow := by
  simp [State.entriesFollow, h]

theorem State.entriesFollow_proceed {s : State} (hs : s.entriesFollow) : s.proceed.entriesFollow := by
  refine State.proceed_keeps (P := State.entriesFollow) (fun t e o h _ _ _ => ?_) (fun t e h _ _ _ => ?_) hs
  · refine State.entriesFollow_of_subset (s := t) (by simp [State.lateFailure]) (by simp [State.lateFailure])
      (fun _ => by simp [State.lateFailure]) (fun x hx _ => ?_) h
    rw [State.lateFailure_queue] at hx
    exact (List.mem_filter.1 hx).1
  · refine State.entriesFollow_of_subset (s := t) rfl rfl (fun _ => rfl) (fun x hx hc => ?_) h
    obtain ⟨y, hy, rfl⟩ := List.mem_map.1 (show x ∈ modifyEntry e.accession _ t.queue from hx)
    by_cases ha : y.accession = e.accession
    · simp [ha] at hc
    · simpa [ha] using hy

theorem State.changesApart_proceed {s : State} (hs : s.changesApart) : s.proceed.changesApart := by
  refine State.proceed_keeps (fun s e o hs _ he _ => ?_) (fun s e hs hm he _ => ?_) hs
  · obtain ⟨member, ready⟩ := State.mem_of_oldestReady he
    exact State.changesApart_congr ((State.sameChanges_noteCommit _ _ _ _).trans (State.sameChanges_raise _ _))
      (State.changesApart_removeEntry hs member (by simp [ready]))
  · exact State.changesApart_take hs (State.mayTake_eq_true.1 hm).1 (State.mem_of_oldestReady he).1

namespace State

variable {s : State}

theorem queueSound_proceed (hs : s.queueSound) : s.proceed.queueSound := by
  obtain ⟨uses, apart, pending, follow⟩ := hs
  exact ⟨State.usesSound_proceed uses, State.changesApart_proceed apart, State.pendingExact_proceed pending,
    State.entriesFollow_proceed follow⟩

theorem queueSound_removeEntry {e : Entry} (hs : s.queueSound) (he : e ∈ s.queue)
    (hc : e.state ≠ .committing) : (s.removeEntry e.accession).queueSound := by
  obtain ⟨uses, apart, pending, follow⟩ := hs
  exact ⟨State.usesSound_removeEntry _ uses, State.changesApart_removeEntry apart he hc,
    State.pendingExact_removeEntry _ pending, State.entriesFollow_of_subset (s := s) rfl rfl (fun _ => rfl)
      (fun x hx _ => (List.mem_filter.1 hx).1) follow⟩

/-- The stages of every entry compared, and the engine's take, over entries that follow their counts. -/
theorem queueSound_reachAllStages (uses : s.usesSound) (apart : s.changesApart) (pending : s.pendingExact)
    (used : s.entriesUsed) : s.reachAllStages.queueSound :=
  ⟨State.usesSound_reachAllStages uses, State.changesApart_congr s.sameChanges_reachAllStages apart,
    foldl_keeps (P := State.pendingExact) (fun _ a h => State.pendingExact_reachStages a h) _ pending,
    State.entriesFollow_reachAllStages apart.1 used⟩

theorem queueSound_reachStages (a : Nat) (uses : s.usesSound) (apart : s.changesApart)
    (pending : s.pendingExact) (used : s.entriesUsed)
    (others : ∀ e ∈ s.queue, e.accession ≠ a → e.undue s) : (s.reachStages a).queueSound :=
  ⟨State.usesSound_reachStages a uses, State.changesApart_congr (s.sameChanges_reachStages a) apart,
    State.pendingExact_reachStages a pending, State.entriesFollow_reachStages a apart.1 used others⟩

theorem queueSound_afterPathWork {n : Fin 16} {c : Cursor} (m : Notices) (r : Resolution)
    (hs : s.queueSound) (started : s.starting = false) (h : s.pathMove n c) :
    (s.afterPathWork n c m r).queueSound := by
  obtain ⟨uses, apart, pending, follow⟩ := hs
  have undue := (State.entriesFollow_iff.1 follow).2
  have settled : (((s.setCursor n c).withNotices m).withResolution r).settle.pendingExact :=
    foldl_keeps (P := State.pendingExact) (fun _ a h => State.pendingExact_reachStages a h) _
      (State.pendingExact_settleCounts (s := ((s.setCursor n c).withNotices m).withResolution r) pending)
  exact ⟨State.usesSound_afterPathWork m r uses started h,
    State.changesApart_proceed (State.changesApart_congr (s := s) (State.sameChanges_settle
      (((s.setCursor n c).withNotices m).withResolution r)) apart),
    State.pendingExact_proceed settled,
    State.entriesFollow_proceed (State.entriesFollow_settle
      (s := ((s.setCursor n c).withNotices m).withResolution r) apart.1 undue)⟩

theorem queueSound_acceptChange {c : Change} (hs : s.queueSound) (started : s.starting = false)
    (strict : Bool) : (s.acceptChange c strict).1.queueSound := by
  have whole := State.usesSound_acceptChange c strict hs.1 started
  obtain ⟨uses, apart, pending, follow⟩ := hs
  rcases s.acceptChange_cases c strict with e | ⟨checks, free, hd, count, -, e⟩ | ⟨checks, idle, -, -, -, e⟩
  · rw [e]
    exact ⟨uses, apart, pending, follow⟩
  · rw [e, State.join_eq]
    have hn := Change.namesItem_of_deferrable hd
    have none := State.entryRefusal_eq_false hn checks.2.2.2.2
    obtain ⟨used, undue⟩ := State.entriesFollow_iff.1 follow
    have inUse : 0 < framesNaming s.cursors c.accession := by
      rw [State.framesNaming_of_useCount uses started (State.record_of_deferrable checks.2.2.1 hd)]
      exact count
    refine State.queueSound_proceed (State.queueSound_reachStages _
      (State.usesSound_joined uses started checks free hd) (State.changesApart_joined apart hn none free)
      (State.pendingExact_joined pending) (fun x hx => ?_) fun x hx ha => ?_)
    · rcases List.mem_append.1 hx with hx | hx
      · exact used x hx
      · rw [List.mem_singleton.1 hx]
        exact ⟨fun _ => inUse, fun h => by cases h⟩
    · rcases List.mem_append.1 hx with hx | hx
      · exact undue x hx
      · rw [List.mem_singleton.1 hx] at ha
        exact absurd rfl ha
  · rw [e] at whole ⊢
    exact ⟨whole, State.changesApart_startCommit apart idle fun hn =>
      State.entryRefusal_eq_false hn checks.2.2.2.2, pending, follow⟩

theorem queueSound_startUp {store : Store} (pending : List Instr) (selectLow : Bool) (k : Nat)
    (sound : (State.startUp pending selectLow store k).storeSound) :
    (State.startUp pending selectLow store k).queueSound :=
  ⟨State.usesSound_startUp sound, State.changesApart_of_idle rfl List.nodup_nil (List.forall_mem_nil _),
    fun h => by simp [State.startUp] at h, State.entriesFollow_of_empty rfl⟩

theorem queueSound_softReset (hs : s.queueSound) : s.softReset.queueSound :=
  State.queueSound_startUp _ _ _ (State.storeSound_softReset hs.1.1)

theorem queueSound_completed {f : InFlight} (hs : s.queueSound) (hf : s.engine.inFlight = some f) :
    (s.completed f).queueSound := by
  obtain ⟨uses, apart, pending, follow⟩ := hs
  refine ⟨State.usesSound_completed uses hf, State.changesApart_of_released uses.1 apart hf
    (s.completed_inFlight f) (map_deferral_completed s f), State.pendingExact_completed f uses.1 pending, ?_⟩
  by_cases hc : f.change.kind = .clearHoldings
  · refine State.entriesFollow_of_empty ?_
    have empty : s.queue = [] := (uses.1.2.1.2.1 f hf).2.2.2.1 hc
    have := map_deferral_completed s f
    simpa [State.released, empty] using this
  · refine State.entriesFollow_of_subset (s := s) ?_ ?_ (fun n => ?_) (fun x hx _ => ?_) follow
    · simp [State.completed]
    · simp [State.completed, State.releaseEntry_settings, State.install_of_ne hc]
    · simp [State.completed, State.install_of_ne hc]
    · simp only [State.completed, State.raise_queue, State.noteCommit_queue, State.releaseEntry_queue,
        State.install_of_ne hc] at hx
      exact (List.mem_filter.1 hx).1

theorem queueSound_storeFaulted {f : InFlight} (hs : s.queueSound) (hf : s.engine.inFlight = some f) :
    (s.storeFaulted f).queueSound := by
  obtain ⟨uses, apart, pending, follow⟩ := hs
  refine ⟨State.usesSound_storeFaulted uses hf, State.changesApart_of_released uses.1 apart hf
    (s.storeFaulted_inFlight f) (map_deferral_storeFaulted s f), State.pendingExact_storeFaulted f pending,
    State.entriesFollow_of_subset (s := s) ?_ ?_ (fun n => ?_) (fun x hx _ => ?_) follow⟩
  · simp [State.storeFaulted, State.returned]
  · simp [State.storeFaulted, State.returned, State.releaseEntry_settings]
  · simp [State.storeFaulted, State.returned]
  · simp only [State.storeFaulted, State.raise_queue, State.noteCommit_queue, State.releaseEntry_queue] at hx
    exact (List.mem_filter.1 hx).1

theorem queueSound_afterCompletion (hs : s.queueSound) : s.afterCompletion.queueSound :=
  State.afterCompletion_keeps State.queueSound_softReset State.queueSound_proceed hs

theorem queueSound_scanComplete (hs : s.queueSound) (starting : s.starting = true) :
    s.scanComplete.queueSound := by
  obtain ⟨uses, apart, -, -⟩ := hs
  have empty : s.queue = [] := (uses.1.2.1.1 starting).2
  exact ⟨State.usesSound_scanComplete uses starting, apart,
    State.pendingExact_scanComplete uses.1 starting, State.entriesFollow_of_empty empty⟩

theorem queueSound_moveVolume (hs : s.queueSound) (v : Fin 64) (m : VolumeMove) :
    (s.moveVolume v m).queueSound := by
  obtain ⟨n, e, -⟩ := s.moveVolume_eq v m
  rw [e]
  exact hs

theorem queueSound_expire (hs : s.queueSound) (v : Fin 64) (i : Interval) : (s.expire v i).queueSound := by
  rcases s.expire_cases v i with e | ⟨-, e⟩ <;> rw [e]
  · exact hs
  · exact State.queueSound_moveVolume hs _ _

theorem queueSound_tick (hs : s.queueSound) : s.tick.queueSound := by
  have expired : s.takeExpiries.queueSound :=
    State.takeExpiries_keeps (P := State.queueSound) (fun _ v i h => State.queueSound_expire h v i) hs
  obtain ⟨uses, apart, pending, follow⟩ := expired
  have used := (State.entriesFollow_iff.1 follow).1
  have same := State.sameChanges_count s.takeExpiries
  refine State.queueSound_proceed (State.queueSound_reachAllStages
    (State.usesSound_congr same.1 (fun _ => by simp) (by simp) uses) (State.changesApart_congr same apart)
    (State.pendingExact_congr (by simp) (by simp) (map_accession_of_deferral same.2) pending) fun e he => ?_)
  rw [State.count_queue] at he
  rw [State.count_cursors]
  split at he
  · exact used e he
  · obtain ⟨x, hx, rfl⟩ := List.mem_map.1 he
    simpa using used x hx

theorem queueSound_setting (hs : s.queueSound) (name : SettingName) (v : Fin 64) (x : Nat) :
    ((s.withSettings (s.settings.write v x name)).settingActs name v).queueSound := by
  obtain ⟨uses, apart, pending, follow⟩ := hs
  have used := (State.entriesFollow_iff.1 follow).1
  cases name
  case tHold1 | tHold2 | tHold3 =>
    exact State.queueSound_proceed (State.queueSound_reachAllStages
      (s := s.withSettings (s.settings.write v x _)) uses apart pending used)
  all_goals exact ⟨uses, apart, pending, follow⟩

theorem queueSound_thaw (hs : s.queueSound) :
    ((s.withEngine { s.engine with frozen := false }).reachAllStages).proceed.queueSound := by
  obtain ⟨uses, apart, pending, follow⟩ := hs
  exact State.queueSound_proceed (State.queueSound_reachAllStages
    (s := s.withEngine { s.engine with frozen := false }) uses apart pending
    (State.entriesFollow_iff.1 follow).1)

/-- A freeze leaves no stage to be compared (R174). -/
theorem queueSound_freeze (hs : s.queueSound) :
    (s.withEngine { s.engine with frozen := true }).queueSound := by
  obtain ⟨uses, apart, pending, follow⟩ := hs
  exact ⟨uses, apart, pending, fun e he => ⟨(follow e he).1, (follow e he).2.1, fun _ h => by cases h⟩⟩

theorem queueSound_stage (hs : s.queueSound) (a : Nat) : (s.reachStages a).proceed.queueSound := by
  obtain ⟨uses, apart, pending, follow⟩ := hs
  obtain ⟨used, undue⟩ := State.entriesFollow_iff.1 follow
  exact State.queueSound_proceed (State.queueSound_reachStages a uses apart pending used
    fun e he _ => undue e he)

theorem queueSound_loop (hs : s.queueSound) (n : Fin 16) (loop : Option LoopRegion) :
    (s.setCursor n { s.cursors.get n with loop := loop }).queueSound := by
  obtain ⟨uses, apart, pending, follow⟩ := hs
  have paths : ∀ i, ((s.cursors.set n { s.cursors.get n with loop := loop }).get i).path =
      (s.cursors.get i).path := fun i => by
    rw [Table.get_set]
    split
    · subst i; rfl
    · rfl
  exact ⟨State.usesSound_congr (s := s) ⟨rfl, rfl, rfl, rfl, rfl, rfl, rfl, rfl⟩ paths rfl uses, apart, pending,
    State.entriesFollow_of_subset (s := s) rfl rfl paths (fun _ h _ => h) follow⟩

end State

theorem queueSound_kept : Kept State.queueSound where
  pending _ _ h := h
  pins _ _ h := h
  link _ _ h := h
  condition _ _ h := h
  resetPending _ h _ := h
  change _ _ _ h hr _ := State.queueSound_acceptChange h hr.2.1 _
  pathWork _ _ _ m r h hr hm _ := State.queueSound_afterPathWork m r h hr.2.1 hm.pathMove
  loop _ _ _ h _ _ _ := State.queueSound_loop h _ _
  cancel _ _ h _ he hc := State.queueSound_removeEntry h (List.mem_of_find?_eq_some he) hc
  freeze _ h _ _ := State.queueSound_freeze h
  thaw _ h _ _ := State.queueSound_thaw h
  volume _ _ _ h _ _ := State.queueSound_moveVolume h _ _
  expire _ _ _ h := State.queueSound_expire h _ _
  arm _ h _ := h
  takeNotices _ h _ := h
  enable _ _ _ h _ := h
  setting _ _ _ _ h _ _ := State.queueSound_setting h _ _ _
  hardReset s mark h := by
    have := State.queueSound_startUp s.pending false s.openValues
      (State.storeSound_hardStartUp h.1.1 _ _ _ mark)
    exact this
  restart s _ h := State.queueSound_startUp _ _ _
    (State.storeSound_startUp _ _ _ h.1.1.1.1 h.1.1.fits.1 h.1.1.fits.2)
  scan _ h hst := State.queueSound_scanComplete h hst
  fail s f h hf := by
    rw [State.failStore_eq]
    exact State.queueSound_afterCompletion (State.queueSound_storeFaulted h hf)
  proceed _ h := State.queueSound_proceed h
  tick _ h := State.queueSound_tick h
  stage _ a h := State.queueSound_stage h a

/-- Settles O57: the counts only fall while stages are reached, so an entry compared once stays undue
(`State.foldl_reachStages_undue`), and every operation that may make a stage due compares it
(`queueSound_kept`). -/
theorem queueAgreesInvariant : Obligations.QueueAgreesInvariant := by
  intro s t hs ht
  refine queueSound_kept.step (fun s f h hf => ?_) hs ht
  rw [State.complete_eq]
  exact State.queueSound_afterCompletion (State.queueSound_completed h hf)

end Sys2Proof.Machine
end

section
/-! SUPPORT. That a cursor within its top item need not stay in one frame at the item's end: an unreachable
state that the invariant admits, a WITHDRAWN record under a standing path of two frames. -/

namespace Sys2Proof.Machine

/-! ### A WITHDRAWN item under a standing path (R59, R61, R81) -/

/-- A WITHDRAWN record of 100,000 microseconds, without segments as R1 has it. -/
def withdrawnTop : ItemRecord :=
  ⟨1, .withdrawn, .other, 1, 0, 0, 100000, 0, 0, 0, none, 0#16, []⟩

/-- An ACTIVE record whose one segment is a LACUNA of 100,000 microseconds. -/
def lacunaLeaf : ItemRecord :=
  ⟨2, .active, .other, 1, 0, 0, 100000, 0, 0, 0, none, 0#16, [⟨0, 100000, .lacuna⟩]⟩

/-- The two as the catalogue holds them. -/
def withdrawnRecords : List ItemRecord := [withdrawnTop, lacunaLeaf]

/-- A cursor at the start of the WITHDRAWN item, whose path goes on into the other. -/
def withdrawnCursor : Cursor :=
  { Cursor.closed with
    state := .open
    top := 1
    chunk := 100000
    path := [⟨1, 0#16, 0, 0, false⟩, ⟨2, 0#16, 0, 0, false⟩] }

/-- The part with that cursor, and a frame open. -/
def withdrawnOpen : State :=
  { State.reset with
    pins := ⟨true, false⟩
    link := { State.reset.link with frame := some Frame.opened }
    starting := false
    store := ⟨withdrawnRecords, none⟩
    index := ⟨[⟨1, 1, false⟩, ⟨2, 1, false⟩], carriersOf withdrawnRecords, 16382, 131071⟩
    cursors := State.reset.cursors.set 0 withdrawnCursor }

/-- The same about to take a FETCH of that cursor. -/
def withdrawnPlaying : State := { withdrawnOpen with pending := [.fetch 0#8 0#8] }

theorem withdrawnCursor_coherent : withdrawnCursor.coherent := by
  refine ⟨?_, ?_, ?_, ?_, ?_, ?_⟩ <;> simp [withdrawnCursor, Cursor.closed, Config.pathDepth]

theorem withdrawnCursor_standsIn : withdrawnCursor.standsIn withdrawnRecords := by
  refine ⟨?_, ?_, ?_, ?_⟩
  · simp [withdrawnCursor, Cursor.closed]
  · simp [withdrawnCursor]
  · simp [withdrawnCursor]
  · intro r hr
    obtain rfl : withdrawnTop = r := Option.some.inj (by rw [← hr]; rfl)
    refine ⟨by simp [withdrawnCursor, Cursor.closed], fun _ _ => ⟨by rfl, ?_, ?_⟩⟩ <;>
      simp [withdrawnCursor, withdrawnTop, Cursor.closed]

theorem withdrawnRecords_listed : ∀ r ∈ withdrawnRecords, r.listed := by
  intro r hr
  obtain rfl | rfl : r = withdrawnTop ∨ r = lacunaLeaf := by simpa [withdrawnRecords] using hr
  · exact ⟨fun h => absurd rfl h, fun _ => rfl⟩
  · exact ⟨fun _ => by
      simp [lacunaLeaf, ItemRecord.tiled, tilesFrom, Config.segmentLimit], fun h => nomatch h⟩

theorem withdrawnPlaying_storeSound : withdrawnPlaying.storeSound := by
  refine ⟨⟨?_, fun _ => ⟨rfl, rfl⟩⟩, ⟨(fun h => nomatch h), (fun f h => nomatch h), ?_⟩, rfl, rfl⟩
  · simp [withdrawnPlaying, withdrawnOpen, withdrawnRecords, withdrawnTop, lacunaLeaf]
  · exact List.forall_mem_nil _

theorem withdrawnPlaying_listsSound : withdrawnPlaying.listsSound :=
  ⟨withdrawnPlaying_storeSound, State.changesApart_of_idle rfl List.nodup_nil (List.forall_mem_nil _),
    withdrawnRecords_listed, (fun _ h => nomatch h), List.forall_mem_nil _⟩

theorem withdrawnPlaying_cursor (n : Fin 16) :
    withdrawnPlaying.cursors.get n = if 0 = n then withdrawnCursor else Cursor.closed := by
  rw [withdrawnPlaying, withdrawnOpen, Table.get_set]
  split
  · rfl
  · exact Table.get_fill _ n

theorem withdrawnPlaying_cursorsStand : withdrawnPlaying.cursorsStand := by
  refine ⟨withdrawnPlaying_listsSound, State.cursorsCoherent_iff.2 fun n => ?_,
    forall_cursors_iff.2 fun n => ?_⟩ <;>
    rw [withdrawnPlaying_cursor] <;> split
  · exact withdrawnCursor_coherent
  · exact Cursor.closed_coherent
  · exact fun _ => withdrawnCursor_standsIn
  · exact fun h => absurd rfl h

/-- The cursor that the FETCH leaves: at the item's end, with the path it had. -/
def withdrawnFetched : Cursor :=
  (({ withdrawnCursor with sequence := 1#16 } : Cursor).fetched
    (withdrawnPlaying.view withdrawnCursor.clearance) withdrawnPlaying.volumes 0).cursor

theorem withdrawnFetched_ended : withdrawnFetched.state = .ended ∧ withdrawnFetched.path.length = 2 := by
  decide

theorem step_withdrawnPlaying : ∃ t : State, step withdrawnPlaying = .next t ∧
    t.cursors.get 0 = withdrawnFetched := by
  have answered : hostCommand (.fetch 0#8 0#8) (onCursor 0#8 true fun n s => s.fetch 0#8 n) withdrawnOpen =
      (withdrawnOpen.fetch 0#8 0).1.respond (.fetch 0#8 0#8) (withdrawnOpen.fetch 0#8 0).2 := by
    rw [hostCommand_ready ⟨rfl, rfl, rfl⟩, onCursor_eq (cursor := 0#8) (n := 0) rfl]
  refine ⟨_, rfl, (congrArg (fun t : State => t.cursors.get 0) answered).trans ?_⟩
  rcases withdrawnOpen.fetch_cases 0#8 0 with ⟨h, -⟩ | ⟨m, r, -, h, -⟩
  · exact nomatch h
  · rw [State.respond_cursors, h, State.afterPathWork, State.settleAndProceed_of_empty rfl]
    rfl

/-- Refutes O60: a path of two frames stands current on a WITHDRAWN item at its start, and a FETCH ends the
cursor at the item's end with both frames, where an ENDED cursor has one (R61, R81). -/
theorem not_cursorsStandInvariant : ¬ Obligations.CursorsStandInvariant := by
  unfold Obligations.CursorsStandInvariant
  intro kept
  obtain ⟨t, stepped, cursor⟩ := step_withdrawnPlaying
  obtain ⟨ended, frames⟩ := withdrawnFetched_ended
  have stands := kept withdrawnPlaying t withdrawnPlaying_cursorsStand (fun f h => nomatch h) stepped
  have within := forall_cursors_iff.1 stands.2.2 0
  rw [cursor] at within
  have one := (within (by rw [ended]; exact nofun)).2.2.1 ended
  rw [frames] at one
  exact absurd one (by decide)

end Sys2Proof.Machine
end

section
/-! SUPPORT. Every host command as the link runs it: its readiness check, then its block's effect, which
leaves the queue of commands and the pins. With it the claims about what is answered, and when. -/

namespace Sys2Proof.Machine

/-! ### The queue of commands and the pins -/

/-- What no host command touches: the queue of commands and the pins. -/
def State.sameHost (s t : State) : Prop := t.pending = s.pending ∧ t.pins = s.pins

theorem State.sameHost_refl (s : State) : s.sameHost s := ⟨rfl, rfl⟩

theorem State.sameHost_noteCondition (s : State) (form : Byte) (c : Condition) (f : Sticky) :
    s.sameHost (s.noteCondition form c f) :=
  ⟨s.noteCondition_pending form c f, s.noteCondition_pins form c f⟩

theorem State.sameHost_afterPathWork (s : State) (n : Fin 16) (c : Cursor) (m : Notices)
    (r : Resolution) : s.sameHost (s.afterPathWork n c m r) := by
  simp [State.sameHost, State.afterPathWork, State.settleAndProceed]

theorem State.sameHost_acceptChange (s : State) (c : Change) (strict : Bool) :
    s.sameHost (s.acceptChange c strict).1 := by
  rcases s.acceptChange_cases c strict with e | ⟨-, -, -, -, -, e⟩ | ⟨-, -, -, -, -, e⟩ <;> rw [e]
  · exact s.sameHost_refl
  · simp [State.sameHost, State.join_eq, State.joined]
  · exact ⟨rfl, rfl⟩

theorem State.sameHost_moveVolume (s : State) (v : Fin 64) (m : VolumeMove) :
    s.sameHost (s.moveVolume v m) := by
  obtain ⟨n, h, -⟩ := s.moveVolume_eq v m
  rw [h]; exact ⟨rfl, rfl⟩

theorem State.sameHost_expire (s : State) (v : Fin 64) (i : Interval) : s.sameHost (s.expire v i) := by
  rcases s.expire_cases v i with h | ⟨-, h⟩ <;> rw [h]
  · exact s.sameHost_refl
  · exact s.sameHost_moveVolume _ _

theorem State.sameHost_settingActs (s : State) (name : SettingName) (v : Fin 64) :
    s.sameHost (s.settingActs name v) := by
  unfold State.settingActs
  split <;> simp [State.sameHost]

theorem State.sameHost_onCursor {s : State} {cursor : Byte} {inRange : Bool}
    {body : Fin 16 → State → State × Response} (h : ∀ n, s.sameHost (body n s).1) :
    s.sameHost (onCursor cursor inRange body s).1 := by
  rcases onCursor_fst cursor inRange body s with e | ⟨n, -, e⟩ <;> rw [e]
  · exact s.sameHost_refl
  · exact h n

theorem State.sameHost_volumeCommand (s : State) (volume : Byte) (inRange : Bool)
    (move : Fin 64 → Volume → Option VolumeMove) :
    s.sameHost (s.volumeCommand volume inRange move).1 := by
  rcases s.volumeCommand_cases volume inRange move with e | ⟨v, m, -, -, -, e⟩ <;> rw [e]
  · exact s.sameHost_refl
  · exact s.sameHost_moveVolume v m

/-! ### A host command as the link runs it (R181, R188) -/

/-- The readiness check of a command (R152, R188). -/
def readinessOf : Instr → State → Option Response
  | .readStatus _ | .unknownCommand _ => fun _ => none
  | .readIdentity _ => identityReadiness
  | .freeze _ => freezeReadiness
  | _ => notReadyAnswer

/-- A command that reaches its moment of effect runs its readiness check and then its block's effect, which
leaves the queue of commands and the pins. -/
def linkedAt (i : Instr) (s : State) : Prop :=
  ∃ effect, exec i s = .next (linkCommand i (readinessOf i) effect s) ∧ s.sameHost (effect s).1

theorem linked_writeItem (form : Byte) (header : WireHeader) {segments : List WireSegment} (s : State)
    (h : segments.length = expectedSegments header.segmentCount) :
    linkedAt (.writeItem form header segments) s := by
  refine ⟨fun s => s.acceptChange (.writeItem header segments) (strictForm form), ?_,
    s.sameHost_acceptChange _ _⟩
  simp only [exec, execWriteItem, ← h, lt_irrefl, if_false, List.take_length]
  rfl

theorem linked_amendSegments (form : Byte) (accession : BitVec 24) (first oldCount newCount : Byte)
    {run : List WireSegment} (s : State) (h : run.length = expectedSegments newCount) :
    linkedAt (.amendSegments form accession first oldCount newCount run) s := by
  refine ⟨fun s => s.acceptChange (.amendSegments accession.toNat first.toNat oldCount.toNat
    newCount.toNat run) false, ?_, s.sameHost_acceptChange _ _⟩
  simp only [exec, execAmendSegments, ← h, lt_irrefl, if_false, List.take_length]
  rfl

theorem linked_of_query {i : Instr} {answer : State → Response} {s : State}
    (hr : readinessOf i = notReadyAnswer) (h : exec i s = .next (hostQuery i answer s)) : linkedAt i s :=
  ⟨fun s => (s, answer s), by rw [h, hr]; rfl, s.sameHost_refl⟩

/-- Every well-formed host command but the repeat of READ STATUS in its own frame (R181, R188, R189). -/
theorem linked_of_form {i : Instr} {s : State} (hf : i.form.isSome = true) (hw : i.wellFormed = true)
    (hs : s.repeatsStatus = false ∨ ∀ form, i ≠ .readStatus form) : linkedAt i s := by
  cases i
  case writeItem form header segments =>
    exact linked_writeItem form header s (by simpa [Instr.wellFormed] using hw)
  case amendSegments form a first k m run =>
    exact linked_amendSegments form a first k m s (by simpa [Instr.wellFormed] using hw)
  case readItem | readSegments | enumerate | findCarrier | readPending | readVolumes | readSetting =>
    exact linked_of_query rfl rfl
  case readIdentity => exact ⟨fun s => (s, ⟨.ok, s.identity⟩), rfl, s.sameHost_refl⟩
  case locate form a position clearance =>
    refine ⟨_, rfl, ?_⟩
    rcases s.locate_fst form a.toNat position clearance with e | ⟨c, f, e⟩ <;> simp only [e]
    · exact s.sameHost_refl
    · exact s.sameHost_noteCondition _ _ _
  case setItemFields | certifyItem | retireItem | purgeItem | clearHoldings | storeSettings =>
    exact ⟨_, rfl, s.sameHost_acceptChange _ _⟩
  case cancelPending form a =>
    refine ⟨_, rfl, ?_⟩
    simp only [State.cancelPending]
    split
    · exact s.sameHost_refl
    · split
      · exact s.sameHost_refl
      · exact ⟨rfl, rfl⟩
  case freeze =>
    refine ⟨_, rfl, ?_⟩
    simp only [State.freeze]
    split
    · exact s.sameHost_refl
    · exact ⟨rfl, rfl⟩
  case thaw =>
    refine ⟨_, rfl, ?_⟩
    simp only [State.thaw]
    split
    · simp [State.sameHost]
    · exact s.sameHost_refl
  case openCursor form cursor a position chunk clearance preference trim =>
    refine ⟨_, rfl, State.sameHost_onCursor fun n => ?_⟩
    rcases s.openCursor_moves form a.toNat position.toNat chunk.toNat clearance.toNat
      ((CopyPreference.ofByte preference).getD .primaryFirst) trim.toInt n with
      e | ⟨k, f, e⟩ | ⟨c, m, r, -, e, -⟩ <;> rw [e]
    · exact s.sameHost_refl
    · exact s.sameHost_noteCondition _ _ _
    · exact s.sameHost_afterPathWork _ _ _ _
  case seek form cursor kind value =>
    refine ⟨_, rfl, State.sameHost_onCursor fun n => ?_⟩
    rcases s.seek_moves form kind value n with e | ⟨k, f, e⟩ | ⟨c, m, r, -, e, -⟩ <;> rw [e]
    · exact s.sameHost_refl
    · exact s.sameHost_noteCondition _ _ _
    · exact s.sameHost_afterPathWork _ _ _ _
  case setLoop form cursor start length =>
    refine ⟨_, rfl, State.sameHost_onCursor fun n => ?_⟩
    rcases s.setLoop_moves form start.toNat length.toNat n with
      e | ⟨k, f, e⟩ | ⟨loop, k, f, -, -, e⟩ <;> rw [e]
    · exact s.sameHost_refl
    · exact s.sameHost_noteCondition _ _ _
    · exact (s.setCursor n _).sameHost_noteCondition _ _ _
  case clearLoop form cursor =>
    refine ⟨_, rfl, State.sameHost_onCursor fun n => ?_⟩
    rcases s.clearLoop_cases n with e | ⟨-, -, e⟩ <;> rw [e]
    · exact s.sameHost_refl
    · exact ⟨rfl, rfl⟩
  case fetch form cursor =>
    refine ⟨_, rfl, State.sameHost_onCursor fun n => ?_⟩
    rcases s.fetch_cases form n with ⟨-, e⟩ | ⟨m, r, -, e, -⟩ <;> rw [e]
    · exact s.sameHost_refl
    · exact s.sameHost_afterPathWork _ _ _ _
  case closeCursor form cursor =>
    refine ⟨_, rfl, State.sameHost_onCursor fun n => ?_⟩
    rcases s.closeCursor_cases n with ⟨-, e⟩ | ⟨-, e⟩ <;> rw [e]
    · exact s.sameHost_refl
    · exact s.sameHost_afterPathWork _ _ _ _
  case readCursor => exact ⟨_, rfl, State.sameHost_onCursor fun n => s.sameHost_refl⟩
  case reportFault | probeResult | probeVolume | failVolume | restoreVolume =>
    exact ⟨_, rfl, s.sameHost_volumeCommand _ _ _⟩
  case armNotices | takeNotices | enableNotices | clearCondition =>
    exact ⟨_, rfl, ⟨rfl, rfl⟩⟩
  case setSetting form number volume value =>
    refine ⟨_, rfl, ?_⟩
    rcases s.setSetting_cases number volume value with e | ⟨name, v, -, -, e⟩ <;> simp only [e]
    · exact s.sameHost_refl
    · exact (s.withSettings _).sameHost_settingActs name v
  case readStatus form =>
    have quiet : s.repeatsStatus = false := hs.resolve_right fun h => h form rfl
    exact ⟨fun s => (s, ⟨.ok, s.statusWord⟩), by simp [exec, execReadStatus, quiet, readinessOf],
      s.sameHost_refl⟩
  case reset =>
    refine ⟨_, rfl, ?_⟩
    simp only [State.orderReset]
    split <;> exact ⟨rfl, rfl⟩
  all_goals cases hf

/-- A host command that takes effect fixes one response and leaves the pins (R181, R182). -/
theorem answered_of_linked {i : Instr} {s : State} (h : linkedAt i s) (ht : s.takesCommand = true) :
    ∃ t r, exec i s = .next t ∧ t.hasAnswered i r ∧ t.pins = s.pins := by
  obtain ⟨effect, e, -, pins⟩ := h
  rcases linkCommand_cases i (readinessOf i) effect s with ⟨hn, -⟩ | ⟨-, r, -, h⟩ | ⟨-, -, h⟩
  · rw [ht] at hn; cases hn
  · exact ⟨s.respond i r, r, by rw [e, h], rfl, rfl⟩
  · exact ⟨(effect s).1.respond i (effect s).2, _, by rw [e, h], rfl, pins⟩

theorem sameHost_linkCommand {i : Instr} {readiness : State → Option Response}
    {effect : State → State × Response} {s : State} (h : s.sameHost (effect s).1) :
    s.sameHost (linkCommand i readiness effect s) := by
  rcases linkCommand_cases i readiness effect s with ⟨-, e⟩ | ⟨-, r, -, e⟩ | ⟨-, -, e⟩ <;> rw [e]
  · exact s.sameHost_refl
  · exact ⟨rfl, rfl⟩
  · exact h

theorem pending_of_linked {i : Instr} {s : State} (h : linkedAt i s) :
    ∃ t, exec i s = .next t ∧ t.pending = s.pending := by
  obtain ⟨effect, e, host⟩ := h
  exact ⟨_, e, (sameHost_linkCommand host).1⟩

theorem repeatsStatus_of_takesCommand {s : State} (h : s.takesCommand = true) :
    s.repeatsStatus = false := by
  unfold State.takesCommand at h
  unfold State.repeatsStatus
  cases hf : s.link.frame with
  | none => simp
  | some f =>
    rw [hf] at h
    have code : f.phase = .code := by simp_all
    simp [code]

theorem exec_readStatus_first (form : Byte) {s : State} (h : s.takesCommand = true) :
    exec (.readStatus form) s = .next (s.respond (.readStatus form) ⟨.ok, s.statusWord⟩) := by
  simp [exec, execReadStatus, repeatsStatus_of_takesCommand h, linkCommand_taken, h]

/-! ### The commands that are no host commands leave the queue of commands -/

theorem State.takeExpiries_pending (s : State) : s.takeExpiries.pending = s.pending := by
  unfold State.takeExpiries
  refine foldl_keeps (P := fun t : State => t.pending = s.pending) (fun t v h => ?_) _ rfl
  split
  · exact (t.sameHost_expire _ _).1.trans h
  · exact h

theorem State.tick_pending (s : State) : s.tick.pending = s.pending := by
  simp [State.tick, s.takeExpiries_pending]

theorem State.afterCompletion_pending (s : State) : s.afterCompletion.pending = s.pending := by
  rcases s.afterCompletion_cases with ⟨-, h⟩ | ⟨-, h⟩ <;> rw [h]
  · rfl
  · exact s.proceed_pending

theorem State.releaseEntry_pending (s : State) (f : InFlight) : (s.releaseEntry f).pending = s.pending := by
  rcases s.releaseEntry_cases f with ⟨-, h⟩ | ⟨-, h⟩ <;> simp [h]

theorem State.completed_pending (s : State) (f : InFlight) : (s.completed f).pending = s.pending := by
  have installed : (s.install f.change).pending = s.pending := by
    unfold State.install
    dsimp only
    split
    · rw [State.dropRemoved_eq]; rfl
    · rfl
  simp [State.completed, State.releaseEntry_pending, installed]

theorem State.storeFaulted_pending (s : State) (f : InFlight) :
    (s.storeFaulted f).pending = s.pending := by
  simp [State.storeFaulted, State.returned, State.releaseEntry_pending]

theorem State.endFrame_pending (s : State) (sampled : List Lanes) :
    (s.endFrame sampled).pending = s.pending := by
  simp only [State.endFrame]
  split_ifs <;> rfl

/-- An event of the part, or a code that names no command. -/
theorem pending_of_no_form {i : Instr} {s : State} (hf : i.form = none) :
    ∃ t, exec i s = .next t ∧ t.pending = s.pending := by
  cases i
  case unknownCommand code =>
    refine ⟨_, rfl, ?_⟩
    split
    · rfl
    · exact (sameHost_linkCommand s.sameHost_refl).1
  case frameOpen =>
    refine ⟨_, rfl, ?_⟩
    simp only [State.openFrame]
    split_ifs <;> rfl
  case frameEnd sampled =>
    refine ⟨_, rfl, ?_⟩
    split
    · exact s.endFrame_pending sampled
    · rfl
  case hardReset => exact ⟨_, rfl, rfl⟩
  case resetNRelease | scanComplete =>
    refine ⟨_, rfl, ?_⟩
    split <;> rfl
  case commitComplete =>
    refine ⟨_, rfl, ?_⟩
    split
    · rfl
    · rw [State.complete_eq, State.afterCompletion_pending, State.completed_pending]
  case commitStoreFault =>
    refine ⟨_, rfl, ?_⟩
    split
    · rfl
    · rw [State.failStore_eq, State.afterCompletion_pending, State.storeFaulted_pending]
  case takeReadyEntry => exact ⟨_, rfl, s.proceed_pending⟩
  case timeBaseTick =>
    refine ⟨_, rfl, ?_⟩
    split
    · rfl
    · exact s.tick_pending
  case tfwinExpiry | tpwaitExpiry | tptoExpiry | tstableExpiry =>
    exact ⟨_, rfl, (s.sameHost_expire _ _).1⟩
  case stageReached => exact ⟨_, rfl, by simp⟩
  all_goals cases hf

/-- A WRITE ITEM or AMEND SEGMENTS row with fewer or more segments than its count announces waits for the
rest, or reads no more than those (R181, R186). -/
theorem pending_of_segments {i : Instr} {s : State} (hw : i.wellFormed = false) (hf : i.form.isSome = true) :
    ∃ t, exec i s = .next t ∧ t.pending = s.pending := by
  cases i
  case writeItem form header segments =>
    by_cases h : segments.length < expectedSegments header.segmentCount
    · refine ⟨if s.takesCommand then s.awaitArguments (.writeItem form header segments) else s,
        by simp only [exec, execWriteItem, if_pos h], ?_⟩
      split <;> rfl
    · have taken : (segments.take (expectedSegments header.segmentCount)).length =
          expectedSegments header.segmentCount := by
        rw [List.length_take]; omega
      obtain ⟨t, ht, pending⟩ := pending_of_linked (linked_writeItem form header s taken)
      refine ⟨t, ?_, pending⟩
      rw [← ht]
      simp only [exec, execWriteItem, if_neg h, taken, lt_irrefl, if_false, List.take_take, min_self]
  case amendSegments form a first k m run =>
    by_cases h : run.length < expectedSegments m
    · refine ⟨if s.takesCommand then s.awaitArguments (.amendSegments form a first k m run) else s,
        by simp only [exec, execAmendSegments, if_pos h], ?_⟩
      split <;> rfl
    · have taken : (run.take (expectedSegments m)).length = expectedSegments m := by
        rw [List.length_take]; omega
      obtain ⟨t, ht, pending⟩ := pending_of_linked (linked_amendSegments form a first k m s taken)
      refine ⟨t, ?_, pending⟩
      rw [← ht]
      simp only [exec, execAmendSegments, if_neg h, taken, lt_irrefl, if_false, List.take_take, min_self]
  case unknownCommand => cases hf
  all_goals cases hw

theorem closed_of_segments {i : Instr} {s : State} (hw : i.wellFormed = false) (hf : i.form.isSome = true)
    (ht : s.takesCommand = false) : exec i s = .next s := by
  cases i
  case writeItem | amendSegments => simp [exec, execWriteItem, execAmendSegments, ht]
  case unknownCommand => cases hf
  all_goals cases hw

theorem pending_of_readStatus (form : Byte) (s : State) :
    ∃ t, exec (.readStatus form) s = .next t ∧ t.pending = s.pending := by
  refine ⟨_, rfl, ?_⟩
  split
  · unfold State.repeatStatus
    split <;> rfl
  · exact (sameHost_linkCommand s.sameHost_refl).1

/-- Settles O2: a host command runs through its frame, and every other row answers a next state too. -/
theorem everyCommandIsAnswered : Obligations.EveryCommandIsAnswered := by
  unfold Obligations.EveryCommandIsAnswered
  refine ⟨fun i s => ?_, fun i s hf hw ht => ?_⟩
  · cases hf : i.form with
    | none => exact pending_of_no_form hf
    | some form =>
      have hf : i.form.isSome = true := by rw [hf]; rfl
      cases hw : i.wellFormed with
      | false => exact pending_of_segments hw hf
      | true =>
        by_cases status : ∃ form, i = .readStatus form
        · obtain ⟨form, rfl⟩ := status
          exact pending_of_readStatus form s
        · exact pending_of_linked (linked_of_form hf hw (.inr fun form e => status ⟨form, e⟩))
  · exact answered_of_linked (linked_of_form hf hw (.inl (repeatsStatus_of_takesCommand ht))) ht

/-! ### The readiness table (R188) -/

/-- With STARTING or RESET_PENDING the readiness check answers NOT_READY for every command but READ STATUS
and, unless a reset is pending, READ IDENTITY (R188). -/
theorem readiness_of_not_ready {i : Instr} {s : State} (hf : i.form.isSome = true)
    (hs : ∀ form, i ≠ .readStatus form) (hi : (∀ form, i ≠ .readIdentity form) ∨ s.resetPending = true)
    (hr : s.starting = true ∨ s.resetPending = true) :
    readinessOf i s = some ⟨.notReady, notReadyDetail i s.starting⟩ := by
  unfold readinessOf
  split
  next form => exact absurd rfl (hs form)
  next => cases hf
  next form =>
    have pending : s.resetPending = true := hi.resolve_left fun h => h form rfl
    simp [identityReadiness, pending, Response.bare, notReadyDetail]
  next form =>
    cases starting : s.starting with
    | true => simp [freezeReadiness, starting, notReadyDetail, Response.bare]
    | false =>
      have pending : s.resetPending = true := hr.resolve_left (by simp [starting])
      simp [freezeReadiness, starting, pending, notReadyDetail, FreezeCause.byte]
  next _ _ _ hfreeze =>
    rw [notReadyAnswer_of_not_ready hr]
    unfold notReadyDetail
    split
    next => exact absurd rfl (hfreeze _)
    next => rfl

/-- Settles O3: the readiness check answers for the block, and READ STATUS, READ IDENTITY and an unknown
code have none or their own. -/
theorem notReadyTurnsCommandsAway : Obligations.NotReadyTurnsCommandsAway := by
  unfold Obligations.NotReadyTurnsCommandsAway
  refine ⟨fun i s hf hw hs hi ht hr => ?_, fun form s ht => ?_, fun code s hk ht => ?_,
    fun form s ht hr => ?_⟩
  · obtain ⟨effect, e, -⟩ := linked_of_form hf hw (.inr hs)
    rw [e, linkCommand_refused ht (readiness_of_not_ready hf hs hi hr)]
  · exact exec_readStatus_first form ht
  · simp [exec, execUnknownCommand, hk, linkCommand_taken, ht, Response.bare]
  · simp only [exec, execReadIdentity]
    rw [linkCommand_taken ht (by simp [identityReadiness, hr])]
    simp only [State.identity, bytesOf, yesNo, pow_zero, Nat.div_one]
    rfl

/-- Settles O4: the link runs no command, and a row of segments that wait is not read either. -/
theorem commandsNeedOpenFrame : Obligations.CommandsNeedOpenFrame := by
  unfold Obligations.CommandsNeedOpenFrame
  rintro i s (hf | ⟨code, rfl⟩) ht hs
  · cases hw : i.wellFormed with
    | true =>
      obtain ⟨effect, e, -⟩ := linked_of_form hf hw hs
      rw [e, linkCommand_closed ht]
    | false => exact closed_of_segments hw hf ht
  · simp [exec, execUnknownCommand, ht]

end Sys2Proof.Machine
end

section
/-! SUPPORT. The link's codec: the arguments of each command spell it, no shorter part of a frame does, and
the clocks of bytes carry those bytes whatever stands on the lanes that are not in use. -/

namespace Sys2Proof.Machine

open Laws

/-! ### The arguments spell the command (R211, R212) -/

/-- The bytes after the form byte spell the command, field by field. -/
theorem commandOf_arguments {i : Instr} {code form : Byte} (hf : i.form = some form)
    (hc : i.code = some code) (hw : i.wellFormed = true) : commandOf code form i.arguments = some i := by
  cases i <;> cases hf <;> cases hc
  case writeItem.refl.refl header segments =>
    have count : segments.length = expectedSegments header.segmentCount := by
      simpa [Instr.wellFormed] using hw
    show some (Instr.writeItem _ _ _) = _
    simp [Instr.arguments, segmentCount_field, ← count, List.take_left', List.drop_left']
  case amendSegments.refl.refl a first k m run =>
    have count : run.length = expectedSegments m := by simpa [Instr.wellFormed] using hw
    have field : fieldOf 8 5 1 (Instr.amendSegments form a first k m run).arguments = m := fieldOf_byte rfl
    have rest : (Instr.amendSegments form a first k m run).arguments.drop 6 =
        run.flatMap WireSegment.bytes := rfl
    show some (Instr.amendSegments _ _ _ _ _ _) = _
    rw [field, rest, ← count, segmentsOfBytes_flatMap, fieldOf_eq (x := a) rfl rfl,
      fieldOf_byte (b := first) rfl, fieldOf_byte (b := k) rfl]
  case setItemFields.refl.refl a fields =>
    show some (Instr.setItemFields _ _ _) = _
    rw [fieldOf_eq (x := a) rfl rfl]
    simp [Instr.arguments, List.drop_left']
  case readItem.refl.refl a | certifyItem.refl.refl a | purgeItem.refl.refl a | cancelPending.refl.refl a =>
    exact congrArg (some ∘ _) (fieldOf_eq (x := a) rfl rfl)
  case clearLoop.refl.refl b | fetch.refl.refl b | closeCursor.refl.refl b | readCursor.refl.refl b
      | reportFault.refl.refl b | probeVolume.refl.refl b | failVolume.refl.refl b
      | restoreVolume.refl.refl b =>
    exact congrArg (some ∘ _) (fieldOf_byte (b := b) rfl)
  case probeResult.refl.refl b c =>
    exact congrArg some (congrArg₂ (Instr.probeResult form) (fieldOf_byte rfl) (fieldOf_byte rfl))
  case readVolumes.refl.refl b c =>
    exact congrArg some (congrArg₂ (Instr.readVolumes form) (fieldOf_byte rfl) (fieldOf_byte rfl))
  case readSetting.refl.refl b c =>
    exact congrArg some (congrArg₂ (Instr.readSetting form) (fieldOf_byte rfl) (fieldOf_byte rfl))
  case readSegments.refl.refl a first maximum =>
    show some (Instr.readSegments _ _ _ _) = _
    rw [fieldOf_eq (x := a) rfl rfl, fieldOf_byte (b := first) rfl, fieldOf_byte (b := maximum) rfl]
  case enumerate.refl.refl a mask maximum =>
    show some (Instr.enumerate _ _ _ _) = _
    rw [fieldOf_eq (x := a) rfl rfl, fieldOf_byte (b := mask) rfl, fieldOf_byte (b := maximum) rfl]
  case findCarrier.refl.refl c k side track a maximum =>
    show some (Instr.findCarrier _ _ _ _ _ _ _) = _
    rw [fieldOf_eq (x := c) rfl rfl, fieldOf_byte (b := k) rfl, fieldOf_byte (b := side) rfl, fieldOf_byte (b := track) rfl, fieldOf_eq (x := a) rfl rfl, fieldOf_byte (b := maximum) rfl]
  case locate.refl.refl a p b =>
    show some (Instr.locate _ _ _ _) = _
    rw [fieldOf_eq (x := a) rfl rfl, fieldOf_eq (x := p) rfl rfl, fieldOf_byte (b := b) rfl]
  case retireItem.refl.refl a b =>
    show some (Instr.retireItem _ _ _) = _
    rw [fieldOf_eq (x := a) rfl rfl, fieldOf_eq (x := b) rfl rfl]
  case openCursor.refl.refl n a p chunk b q trim =>
    show some (Instr.openCursor _ _ _ _ _ _ _ _) = _
    rw [fieldOf_byte (b := n) rfl, fieldOf_eq (x := a) rfl rfl, fieldOf_eq (x := p) rfl rfl, fieldOf_eq (x := chunk) rfl rfl, fieldOf_byte (b := b) rfl, fieldOf_byte (b := q) rfl, fieldOf_eq (x := trim) rfl rfl]
  case seek.refl.refl n k x =>
    show some (Instr.seek _ _ _ _) = _
    rw [fieldOf_byte (b := n) rfl, fieldOf_byte (b := k) rfl, fieldOf_eq (x := x) rfl rfl]
  case setLoop.refl.refl n a b =>
    show some (Instr.setLoop _ _ _ _) = _
    rw [fieldOf_byte (b := n) rfl, fieldOf_eq (x := a) rfl rfl, fieldOf_eq (x := b) rfl rfl]
  case enableNotices.refl.refl a b =>
    show some (Instr.enableNotices _ _ _) = _
    rw [fieldOf_eq (x := a) rfl rfl, fieldOf_eq (x := b) rfl rfl]
  case setSetting.refl.refl b v x =>
    show some (Instr.setSetting _ _ _ _) = _
    rw [fieldOf_byte (b := b) rfl, fieldOf_byte (b := v) rfl, fieldOf_eq (x := x) rfl rfl]
  case clearHoldings.refl.refl | storeSettings.refl.refl | readPending.refl.refl | freeze.refl.refl
      | thaw.refl.refl | armNotices.refl.refl | takeNotices.refl.refl | readStatus.refl.refl
      | readIdentity.refl.refl | clearCondition.refl.refl | reset.refl.refl =>
    rfl

/-- A code whose arguments are of one length however they read (R211). -/
theorem argumentLength_fixed {code : Byte} (hw : code ≠ 0x20#8) (ha : code ≠ 0x21#8) (x y : List Byte) :
    argumentLength code x = argumentLength code y := by
  unfold argumentLength
  split <;> try rfl
  next h => exact absurd (BitVec.eq_of_toNat_eq h) hw
  next h => exact absurd (BitVec.eq_of_toNat_eq h) ha

/-- A field that has come whole reads as it does in the whole frame. -/
theorem fieldOf_take {w offset n m : Nat} {bytes : List Byte} (h : offset + n ≤ m) :
    fieldOf w offset n (bytes.take m) = fieldOf w offset n bytes := by
  simp only [fieldOf, List.drop_take, List.take_take]
  rw [min_eq_left (by omega)]

/-- A part of the arguments announces more bytes than have come (R181). -/
theorem argumentLength_take {code : Byte} {args : List Byte} {m : Nat}
    (h : argumentLength code args = some args.length) (hm : m < args.length) :
    ∃ n, argumentLength code (args.take m) = some n ∧ m < n := by
  by_cases hw : code = 0x20#8
  · subst hw
    refine ⟨_, rfl, ?_⟩
    by_cases hc : 20 ≤ m
    · rw [fieldOf_take hc]
      exact hm.trans_eq (Option.some.inj h).symm
    · omega
  · by_cases ha : code = 0x21#8
    · subst ha
      refine ⟨_, rfl, ?_⟩
      by_cases hc : 6 ≤ m
      · rw [fieldOf_take hc]
        exact hm.trans_eq (Option.some.inj h).symm
      · omega
    · exact ⟨args.length, by rw [argumentLength_fixed hw ha _ args, h], hm⟩

/-! ### Whole frames and their parts (R180, R181, R184) -/

theorem frameBytes_statement (i : Instr) : FrameBytes.Statement i := by
  cases i
  case writeItem => exact FrameBytes.writeItem _ _ _
  case amendSegments => exact FrameBytes.amendSegments _ _ _ _ _ _
  case unknownCommand | frameOpen | frameEnd | hardReset | resetNRelease | scanComplete | commitComplete
      | commitStoreFault | takeReadyEntry | timeBaseTick | tfwinExpiry | tpwaitExpiry | tptoExpiry
      | tstableExpiry | stageReached =>
    exact no_form rfl rfl
  all_goals exact frame_of_code rfl rfl rfl rfl

theorem decodeFrame_frameBytes {i : Instr} (hf : i.form.isSome = true ∨ ∃ code, i = .unknownCommand code)
    (hw : i.wellFormed = true) : decodeFrame i.frameBytes = some i := by
  rcases hf with hf | ⟨code, rfl⟩
  · obtain ⟨form, hform⟩ := Option.isSome_iff_exists.1 hf
    obtain ⟨code, hcode, known, bytes, length⟩ := (frameBytes_statement i hw).1 form hform
    simp [bytes, decodeFrame, known, length, commandOf_arguments hform hcode hw]
  · have unknown : knownCode code = false := by simpa [Instr.wellFormed] using hw
    simp [Instr.frameBytes, Instr.code, Instr.form, Instr.arguments, decodeFrame, unknown]

theorem decodeFrame_take {i : Instr} (hf : i.form.isSome = true ∨ ∃ code, i = .unknownCommand code)
    (hw : i.wellFormed = true) {n : Nat} (hn : n < i.frameBytes.length) :
    decodeFrame (i.frameBytes.take n) = none := by
  rcases hf with hf | ⟨code, rfl⟩
  · obtain ⟨form, hform⟩ := Option.isSome_iff_exists.1 hf
    obtain ⟨code, hcode, known, bytes, length⟩ := (frameBytes_statement i hw).1 form hform
    rw [bytes] at hn ⊢
    match n with
    | 0 => rfl
    | 1 => simp [decodeFrame, known]
    | m + 2 =>
      have short : m < i.arguments.length := by simpa using hn
      obtain ⟨k, hk, more⟩ := argumentLength_take length short
      simp [decodeFrame, known, hk, more]
  · obtain rfl : n = 0 := by
      simpa [Instr.frameBytes, Instr.code, Instr.form, Instr.arguments] using hn
    rfl

/-! ### Clocks carry bytes (R180) -/

/-- The lane counts of R180. -/
def laneCount (lanes : Nat) : Prop := lanes = 1 ∨ lanes = 2 ∨ lanes = 4

theorem clocksPerByte_pos {lanes : Nat} (h : laneCount lanes) : 0 < clocksPerByte lanes := by
  rcases h with rfl | rfl | rfl <;> decide

/-- What one clock carries is read from the lanes in use alone. -/
theorem clockValue_congr {lanes : Nat} (h : laneCount lanes) {x y : Lanes}
    (hxy : ∀ lane, lane < lanes → x.getLsbD lane = y.getLsbD lane) :
    clockValue lanes x = clockValue lanes y := by
  have value : ∀ z : Lanes, clockValue lanes z = z.toNat % 2 ^ lanes := by
    intro z
    rcases h with rfl | rfl | rfl
    · rfl
    · rfl
    · exact (Nat.mod_eq_of_lt z.isLt).symm
  rw [value, value]
  refine Nat.eq_of_testBit_eq fun lane => ?_
  rw [Nat.testBit_mod_two_pow, Nat.testBit_mod_two_pow]
  by_cases hl : lane < lanes
  · simpa [hl, BitVec.getLsbD] using hxy lane hl
  · simp [hl]

/-- Clocks that carry the same values on the lanes in use. -/
def sameClocks (lanes : Nat) (xs ys : List Lanes) : Prop :=
  xs.map (clockValue lanes) = ys.map (clockValue lanes)

theorem sameClocks_of_lanes {lanes : Nat} (h : laneCount lanes) {xs ys : List Lanes}
    (hl : xs.length = ys.length) (hxy : ∀ (k : Nat) (x y : Lanes), xs[k]? = some x → ys[k]? = some y →
      ∀ lane, lane < lanes → x.getLsbD lane = y.getLsbD lane) : sameClocks lanes xs ys := by
  refine List.ext_getElem (by simp [hl]) fun k hx hy => ?_
  simp only [List.getElem_map]
  exact clockValue_congr h (hxy k _ _ (List.getElem?_eq_getElem _) (List.getElem?_eq_getElem _))

/-- A fold that reads each element through `g` sees the images alone. -/
theorem foldl_congr_map {α β γ : Type} {f : β → γ → β} {g : α → γ} {xs ys : List α}
    (h : xs.map g = ys.map g) (b : β) :
    xs.foldl (fun acc x => f acc (g x)) b = ys.foldl (fun acc x => f acc (g x)) b := by
  rw [← List.foldl_map (f := g) (g := f), ← List.foldl_map (f := g) (g := f), h]

theorem byteOfClocks_congr {lanes : Nat} {xs ys : List Lanes} (h : sameClocks lanes xs ys) :
    byteOfClocks lanes xs = byteOfClocks lanes ys :=
  congrArg (BitVec.ofNat 8) (foldl_congr_map (f := fun acc v => acc * _ + v) h 0)

theorem bytesOfClocks_congr {lanes : Nat} {xs ys : List Lanes} (h : sameClocks lanes xs ys) :
    bytesOfClocks lanes xs = bytesOfClocks lanes ys := by
  have length : xs.length = ys.length := by simpa using congrArg List.length h
  unfold bytesOfClocks
  rw [length]
  refine List.map_congr_left fun k _ => byteOfClocks_congr ?_
  unfold sameClocks
  rw [List.map_take, List.map_take, List.map_drop, List.map_drop, h]

/-- Clocks one byte time after another carry one byte after another. -/
theorem bytesOfClocks_append {lanes : Nat} (h : laneCount lanes) {xs : List Lanes}
    (hx : xs.length = clocksPerByte lanes) (ys : List Lanes) :
    bytesOfClocks lanes (xs ++ ys) = byteOfClocks lanes xs :: bytesOfClocks lanes ys := by
  have count : (xs ++ ys).length / clocksPerByte lanes = ys.length / clocksPerByte lanes + 1 := by
    rw [List.length_append, hx, Nat.add_div_left _ (clocksPerByte_pos h)]
  unfold bytesOfClocks
  rw [count, List.range_succ_eq_map, List.map_cons, List.map_map]
  congr 1
  · simp [← hx]
  · refine List.map_congr_left fun k _ => ?_
    simp only [Function.comp, Nat.succ_mul]
    rw [Nat.add_comm, ← List.drop_drop, List.drop_append_of_le_length hx.ge, ← hx, List.drop_length,
      List.nil_append]

/-- The clocks of bytes carry those bytes. -/
theorem bytesOfClocks_flatMap {lanes : Nat} (h : laneCount lanes) (bytes : List Byte) :
    bytesOfClocks lanes (bytes.flatMap (clocksOfByte lanes)) = bytes := by
  induction bytes with
  | nil => simp [bytesOfClocks]
  | cons b rest ih =>
    rw [List.flatMap_cons, bytesOfClocks_append h (length_clocksOfByte h b), ih,
      byteOfClocks_clocksOfByte h]

/-- The clocks that have come carry the whole bytes that have come. -/
theorem bytesOfClocks_take {lanes : Nat} (h : laneCount lanes) (xs : List Lanes) {n : Nat}
    (hn : n ≤ xs.length) :
    bytesOfClocks lanes (xs.take n) = (bytesOfClocks lanes xs).take (n / clocksPerByte lanes) := by
  have fewer : n / clocksPerByte lanes ≤ xs.length / clocksPerByte lanes := Nat.div_le_div_right hn
  unfold bytesOfClocks
  rw [← List.map_take, List.take_range, List.length_take, min_eq_left hn, min_eq_left fewer]
  refine List.map_congr_left fun k hk => ?_
  have whole : (k + 1) * clocksPerByte lanes ≤ n :=
    (Nat.le_div_iff_mul_le (clocksPerByte_pos h)).1 (List.mem_range.1 hk)
  rw [List.drop_take, List.take_take, min_eq_left]
  rw [Nat.succ_mul] at whole
  omega

theorem length_flatMap_clocks {lanes : Nat} (h : laneCount lanes) (bytes : List Byte) :
    (bytes.flatMap (clocksOfByte lanes)).length = bytes.length * clocksPerByte lanes := by
  induction bytes with
  | nil => simp
  | cons b rest ih =>
    rw [List.flatMap_cons, List.length_append, length_clocksOfByte h, ih, List.length_cons, Nat.succ_mul,
      Nat.add_comm]

/-! ### A frame's clocks -/

/-- The clocks of a code byte on D0 and of bytes on the lanes in use (R180). -/
def clocksOfFrame (lanes : Nat) (code : Byte) (rest : List Byte) : List Lanes :=
  clocksOfByte 1 code ++ rest.flatMap (clocksOfByte lanes)

/-- Clocks that carry the same values as a frame's on the lanes in use are read as that frame's bytes, and
part of them as a part of its bytes. -/
theorem frameBytesOf_take {lanes : Nat} (h : laneCount lanes) {code : Byte} {rest : List Byte}
    {sampled : List Lanes} (hl : sampled.length = (clocksOfFrame lanes code rest).length)
    (hs : ∀ k x y, sampled[k]? = some x → (clocksOfFrame lanes code rest)[k]? = some y →
      ∀ lane, lane < (if k < 8 then 1 else lanes) → x.getLsbD lane = y.getLsbD lane) :
    ∀ n, n ≤ sampled.length → frameBytesOf lanes (sampled.take n) =
      (code :: rest).take (if n < 8 then 0 else 1 + (n - 8) / clocksPerByte lanes) := by
  have first : (clocksOfByte 1 code).length = 8 := length_clocksOfByte (.inl rfl) code
  have eight : 8 ≤ sampled.length := by rw [hl, clocksOfFrame, List.length_append, first]; omega
  have codeClocks : sameClocks 1 (sampled.take 8) (clocksOfByte 1 code) := by
    refine sameClocks_of_lanes (.inl rfl) (by rw [List.length_take, first]; omega)
      fun k x y hx hy lane hlane => ?_
    have hk : k < 8 := first ▸ (List.getElem?_eq_some_iff.1 hy).1
    refine hs k x y ?_ ?_ lane (by rwa [if_pos hk])
    · rwa [List.getElem?_take_of_lt hk] at hx
    · rw [clocksOfFrame, List.getElem?_append_left (by omega), hy]
  have restClocks : sameClocks lanes (sampled.drop 8) (rest.flatMap (clocksOfByte lanes)) := by
    refine sameClocks_of_lanes h ?_ fun k x y hx hy lane hlane => ?_
    · rw [List.length_drop, hl, clocksOfFrame, List.length_append, first]; omega
    · rw [List.getElem?_drop] at hx
      refine hs (8 + k) x y hx ?_ lane (by rwa [if_neg (by omega)])
      rw [clocksOfFrame, List.getElem?_append_right (by omega), first, Nat.add_sub_cancel_left, hy]
  intro n hn
  unfold frameBytesOf
  rw [List.length_take, min_eq_left hn]
  split
  · rfl
  · rename_i h8
    rw [List.take_take, min_eq_left (by omega), byteOfClocks_congr codeClocks,
      byteOfClocks_clocksOfByte (.inl rfl), List.drop_take,
      bytesOfClocks_take h _ (by rw [List.length_drop]; omega), bytesOfClocks_congr restClocks,
      bytesOfClocks_flatMap h, Nat.add_comm 1, List.take_succ_cons]

theorem frameClocks_eq {i : Instr} {code : Byte} {rest : List Byte} (hb : i.frameBytes = code :: rest)
    (hc : i.code = some code) (lanes : Nat) : i.frameClocks lanes = clocksOfFrame lanes code rest := by
  have bytes : i.form.toList ++ i.arguments = rest := by
    simpa [Instr.frameBytes, hc] using hb
  simp [Instr.frameClocks, clocksOfFrame, hc, ← bytes]

theorem frameBytes_cons {i : Instr} (hf : i.form.isSome = true ∨ ∃ code, i = .unknownCommand code)
    (hw : i.wellFormed = true) : ∃ code rest, i.code = some code ∧ i.frameBytes = code :: rest := by
  rcases hf with hf | ⟨code, rfl⟩
  · obtain ⟨form, hform⟩ := Option.isSome_iff_exists.1 hf
    obtain ⟨code, hcode, -, bytes, -⟩ := (frameBytes_statement i hw).1 form hform
    exact ⟨code, _, hcode, bytes⟩
  · exact ⟨code, [], rfl, rfl⟩

/-- Settles O5: the arguments of each command spell it, and whole byte times carry whole bytes. -/
theorem frameBytesRoundTrip : Obligations.FrameBytesRoundTrip := by
  unfold Obligations.FrameBytesRoundTrip
  intro i hf hw
  refine ⟨⟨decodeFrame_frameBytes hf hw, fun n => decodeFrame_take hf hw⟩,
    fun lanes sampled h hl hs => ?_⟩
  obtain ⟨code, rest, hcode, bytes⟩ := frameBytes_cons hf hw
  rw [frameClocks_eq bytes hcode] at hl hs
  have first : (clocksOfByte 1 code).length = 8 := length_clocksOfByte (.inl rfl) code
  have length : sampled.length = 8 + rest.length * clocksPerByte lanes := by
    rw [hl, clocksOfFrame, List.length_append, first, length_flatMap_clocks h]
  have parts := frameBytesOf_take h hl hs
  have whole : frameBytesOf lanes sampled = i.frameBytes := by
    have := parts sampled.length le_rfl
    rw [List.take_length, if_neg (by omega), length, Nat.add_sub_cancel_left,
      Nat.mul_div_cancel _ (clocksPerByte_pos h), Nat.add_comm 1, List.take_succ_cons,
      List.take_length] at this
    rw [this, bytes]
  refine ⟨whole, by rw [decodeClocks, whole, decodeFrame_frameBytes hf hw], fun n hn => ?_⟩
  rw [decodeClocks, parts n hn.le, ← bytes]
  refine decodeFrame_take hf hw ?_
  rw [bytes, List.length_cons]
  split
  · omega
  · have : (n - 8) / clocksPerByte lanes < rest.length :=
      (Nat.div_lt_iff_lt_mul (clocksPerByte_pos h)).2 (by omega)
    omega

end Sys2Proof.Machine
end

section
/-! SUPPORT. The frame's edges, what the part drives, resets and the start-up scan. -/

namespace Sys2Proof.Machine

/-! ### The rise of SEL (R183, R184, R185) -/

theorem exec_frameEnd_eq {sampled : List Lanes} {s : State} (h : s.pins.selectLow = true) :
    exec (.frameEnd sampled) s = .next (s.endFrame sampled) := by
  simp [exec, execFrameEnd, h]

theorem exec_frameEnd_quiet {sampled : List Lanes} {s : State} {f : Frame} (h : s.pins.selectLow = true)
    (hf : s.link.frame = some f) (hr : s.link.resetOrdered = false) :
    exec (.frameEnd sampled) s = .next ((s.withPins ⟨false, s.pins.held⟩).withLink ⟨none,
      s.settings.linkLanes, (frameResult s.link.lanes f sampled).getD s.link.lastResult, false⟩) := by
  rw [exec_frameEnd_eq h]
  simp [State.endFrame, hr, State.linkAfterFrame, hf]

theorem clocked_phase_of_ne {f : Frame} (h : f.phase ≠ .turnaround) (lanes n : Nat) :
    (f.clocked lanes n).phase = f.phase := by
  simp [Frame.clocked, h]

theorem frameResult_discard {f : Frame} (h : f.phase = .discard) (lanes : Nat) (sampled : List Lanes) :
    frameResult lanes f sampled = none := by
  simp [frameResult, clocked_phase_of_ne (f := f) (by simp [h]), h]

theorem frameResult_no_code {f : Frame} (h : f.phase = .code) (lanes : Nat) {sampled : List Lanes}
    (hs : sampled.length < 8) : frameResult lanes f sampled = none := by
  simp [frameResult, clocked_phase_of_ne (f := f) (by simp [h]), h, frameBytesOf, hs]

theorem frameResult_code {f : Frame} (h : f.phase = .code) (lanes : Nat) {sampled : List Lanes}
    (hs : 8 ≤ sampled.length) : frameResult lanes f sampled =
      if leavesLinkResult (byteOfClocks 1 (sampled.take 8)) then none
      else if knownCode (byteOfClocks 1 (sampled.take 8)) then some .truncated else some .unknownCode := by
  simp [frameResult, clocked_phase_of_ne (f := f) (by simp [h]), h, frameBytesOf, hs.not_gt]

theorem frameResult_arguments {f : Frame} (h : f.phase = .arguments) (lanes : Nat) (sampled : List Lanes) :
    frameResult lanes f sampled = some .truncated := by
  simp [frameResult, clocked_phase_of_ne (f := f) (by simp [h]), h]

theorem clocked_phase_answered {f : Frame} (h : f.phase = .turnaround ∨ f.phase = .response)
    (lanes n : Nat) :
    (f.clocked lanes n).phase = .turnaround ∨ (f.clocked lanes n).phase = .response := by
  unfold Frame.clocked
  split
  · exact .inr rfl
  · exact h

theorem frameResult_answered {f : Frame} (h : f.phase = .turnaround ∨ f.phase = .response) {code : Byte}
    (hc : f.code = some code) (lanes : Nat) (sampled : List Lanes) : frameResult lanes f sampled =
      if leavesLinkResult code then none
      else if !knownCode code then some .unknownCode
      else if (1 + f.response.length) * (8 / lanes) ≤ sampled.length then some .complete
      else some .cutShort := by
  rcases clocked_phase_answered h lanes sampled.length with hp | hp <;>
    (simp only [frameResult, hp, hc]; rfl)

theorem leavesLinkResult_iff {code : Byte} : leavesLinkResult code = true ↔ code = 0x70#8 ∨ code = 0x71#8 := by
  simp [leavesLinkResult]

/-- Settles O6: the result by the phase the frame ends in. -/
theorem framesOpenAndEnd : Obligations.FramesOpenAndEnd := by
  unfold Obligations.FramesOpenAndEnd
  refine ⟨fun s high free => ?_, fun s low => ?_, fun sampled s f low hf hr => ⟨_, exec_frameEnd_quiet low hf hr,
    fun h => ?_, fun h hs => ?_, fun h hs code hc => ?_, fun h => ?_, fun h code hc => ?_⟩⟩
  · simp [exec, execFrameOpen, high, State.openFrame, free, Frame.opened]
  · simp [exec, execFrameOpen, low]
  · rw [frameResult_discard h]; rfl
  · rw [frameResult_no_code h _ hs]; rfl
  · rw [frameResult_code h _ hs, ← hc]
    simp only [leavesLinkResult_iff]
    split_ifs <;> rfl
  · rw [frameResult_arguments h]; rfl
  · rw [frameResult_answered h hc]
    simp only [leavesLinkResult_iff, Bool.not_eq_true']
    split_ifs <;> rfl

/-! ### What the part drives (R182, R189, R209) -/

/-- Only READ STATUS has the code 70h. -/
theorem readStatus_of_code {i : Instr} (hw : i.wellFormed = true) (h : i.code = some 0x70#8) :
    ∃ form, i = .readStatus form := by
  cases i
  case readStatus form => exact ⟨form, rfl⟩
  case unknownCommand code =>
    obtain rfl : code = 0x70#8 := Option.some.inj h
    exact absurd hw (by decide)
  all_goals simp [Instr.code] at h

/-- A run of byte times one after another. -/
theorem map_range_mul {α : Type} (g : Nat → α) (q n : Nat) :
    (List.range (q * n)).map g =
      (List.range q).flatMap fun j => (List.range n).map fun i => g (j * n + i) := by
  induction q with
  | zero => simp
  | succ q ih =>
    rw [Nat.succ_mul, List.range_add, List.map_append, ih, List.range_succ, List.flatMap_append]
    simp [Function.comp_def]

theorem map_range_getD {α : Type} (l : List α) (d : α) : (List.range l.length).map (fun k => l.getD k d) = l := by
  refine List.ext_getElem (by simp) fun k hk _ => ?_
  have : k < l.length := by simpa using hk
  simp [this]

section
variable {s : State} {f : Frame}

theorem drivenAt_turnaround (hf : s.link.frame = some f) {k : Nat}
    (hk : k < clocksPerByte s.link.lanes) : s.drivenAt k = DrivenLanes.released := by
  simp [State.drivenAt, hf, hk]

theorem clocked_phase_of_turnaround (hp : f.phase = .turnaround) (lanes k : Nat) :
    (f.clocked lanes k).phase = if k < clocksPerByte lanes then .turnaround else .response := by
  unfold Frame.clocked
  by_cases h : k < clocksPerByte lanes
  · rw [if_neg (by omega), if_pos h, hp]
  · rw [if_pos ⟨hp, by omega⟩, if_neg h]

theorem drivenAt_response (hf : s.link.frame = some f) (hp : f.phase = .turnaround) {k : Nat}
    (hk : clocksPerByte s.link.lanes ≤ k) : s.drivenAt k = ⟨lanesUsed s.link.lanes,
      (clocksOfByte s.link.lanes (s.responseByte f (k / clocksPerByte s.link.lanes - 1))).getD
        (k % clocksPerByte s.link.lanes) 0#4⟩ := by
  simp [State.drivenAt, hf, clocked_phase_of_turnaround hp, hk, hk.not_gt]

theorem drivenAt_unanswered (h : ∀ f, s.link.frame = some f →
    f.phase = .code ∨ f.phase = .arguments ∨ f.phase = .discard) (k : Nat) :
    s.drivenAt k = DrivenLanes.released := by
  unfold State.drivenAt
  cases hf : s.link.frame with
  | none => rfl
  | some f =>
    have ne : f.phase ≠ .turnaround ∧ f.phase ≠ .response := by
      rcases h f hf with e | e | e <;> simp [e]
    simp [clocked_phase_of_ne ne.1, ne.2]

/-- The bytes the part drives past the turnaround: the response byte of each byte time. -/
theorem bytes_driven (hf : s.link.frame = some f) (hp : f.phase = .turnaround)
    (hl : laneCount s.link.lanes) (count : Nat) :
    bytesOfClocks s.link.lanes
      (((s.drivenClocks ((1 + count) * clocksPerByte s.link.lanes)).drop
        (clocksPerByte s.link.lanes)).map (·.level)) = (List.range count).map (s.responseByte f) := by
  have pos := clocksPerByte_pos hl
  have clocks : ((s.drivenClocks ((1 + count) * clocksPerByte s.link.lanes)).drop
      (clocksPerByte s.link.lanes)).map (·.level) =
        ((List.range count).map (s.responseByte f)).flatMap (clocksOfByte s.link.lanes) := by
    rw [State.drivenClocks, Nat.add_mul, Nat.one_mul, List.range_add, List.map_append,
      List.drop_left' (by simp), List.map_map, List.map_map, map_range_mul, List.flatMap_map]
    congr 1
    funext j
    conv_rhs => rw [← map_range_getD (clocksOfByte s.link.lanes (s.responseByte f j)) 0#4,
      length_clocksOfByte hl]
    refine List.map_congr_left fun i hi => ?_
    have hi : i < clocksPerByte s.link.lanes := List.mem_range.1 hi
    have time : clocksPerByte s.link.lanes + (j * clocksPerByte s.link.lanes + i) =
        i + (j + 1) * clocksPerByte s.link.lanes := by rw [Nat.succ_mul]; omega
    simp only [Function.comp_apply, time]
    rw [drivenAt_response hf hp (by rw [Nat.succ_mul]; omega), Nat.add_mul_div_right _ _ pos,
      Nat.add_mul_mod_self_right, Nat.div_eq_of_lt hi, Nat.mod_eq_of_lt hi, Nat.zero_add,
      Nat.add_sub_cancel]
  rw [clocks, bytesOfClocks_flatMap hl]

end

/-- A list read from its start, and from another list past its end. -/
theorem map_range_eq_take {α : Type} {g : Nat → α} {xs ys : List α} {count : Nat}
    (hx : ∀ k x, xs[k]? = some x → g k = x) (hl : count ≤ ys.length)
    (hy : ∀ k y, xs.length ≤ k → ys[k - xs.length]? = some y → g k = y) :
    (List.range count).map g = (xs ++ ys).take count := by
  refine List.ext_getElem (by simp; omega) fun k hk _ => ?_
  have hk : k < count := by simpa using hk
  simp only [List.getElem_map, List.getElem_range, List.getElem_take, List.getElem_append]
  split
  · exact hx k _ (List.getElem?_eq_getElem _)
  · exact hy k _ (by omega) (List.getElem?_eq_getElem _)

theorem getElem?_flatten_replicate {α : Type} {w : List α} {n : Nat} (hw : w.length = n) {count k : Nat}
    {x : α} (h : (List.replicate count w).flatten[k]? = some x) : w[k % n]? = some x := by
  induction count generalizing k with
  | zero => simp at h
  | succ count ih =>
    rw [List.replicate_succ, List.flatten_cons] at h
    by_cases hk : k < n
    · rw [List.getElem?_append_left (by omega)] at h
      rwa [Nat.mod_eq_of_lt hk]
    · rw [List.getElem?_append_right (by omega), hw] at h
      rw [Nat.mod_eq_sub_mod (by omega)]
      exact ih h

theorem responseByte_of_response {s : State} {f : Frame} {k : Nat} {b : Byte}
    (h : f.response[k]? = some b) : s.responseByte f k = b := by
  simp [State.responseByte, h]

/-- Settles O7: past the turnaround each byte time carries its response byte. -/
theorem responseDriven : Obligations.ResponseDriven := by
  unfold Obligations.ResponseDriven
  rintro s i r n count hw hf hl rfl
  have hl : laneCount s.link.lanes := hl
  unfold State.hasAnswered at hf
  refine ⟨fun f h k => ?_, fun k hk => ?_, fun k hk lane hlane => ?_, fun hs => ?_, ?_, fun t k h => ?_⟩
  · obtain rfl : _ = f := Option.some.inj (hf.symm.trans h)
    exact clocked_phase_of_turnaround rfl _ k
  · rw [drivenAt_turnaround hf hk]; rfl
  · rw [drivenAt_response hf rfl hk]
    dsimp only
    rcases hl with e | e | e <;> rw [e] <;> decide +revert
  · refine (bytes_driven hf rfl hl count).trans (map_range_eq_take
      (fun k b => responseByte_of_response (f := ⟨.turnaround, i.code, i.frameBytes, r.bytes⟩)) (by simp) fun k b hk hb => ?_)
    have code : i.code ≠ some 0x70#8 := fun h => by
      obtain ⟨form, e⟩ := readStatus_of_code hw h
      exact hs form e
    have zero : b = 0#8 := List.eq_of_mem_replicate (List.mem_of_getElem? hb)
    simp [State.responseByte, List.getElem?_eq_none hk, code, zero]
  · rintro form rfl -
    refine (bytes_driven hf rfl hl count).trans (map_range_eq_take
      (fun k b => responseByte_of_response (f := ⟨.turnaround, some 0x70#8, _, r.bytes⟩)) ?_ fun k b hk hb => ?_)
    · simp [State.statusWord]; omega
    · have := getElem?_flatten_replicate (n := 8) rfl hb
      simp [State.responseByte, List.getElem?_eq_none hk, Instr.code, List.getD, this]
  · rw [drivenAt_unanswered h]; rfl

/-! ### READ STATUS (R189, R203, R214) -/

theorem flagByte_bits (a b c d e f : Bool) :
    (flagByte [a, b, c, d, e, f]).getLsbD 0 = a ∧ (flagByte [a, b, c, d, e, f]).getLsbD 1 = b ∧
      (flagByte [a, b, c, d, e, f]).getLsbD 2 = c ∧ (flagByte [a, b, c, d, e, f]).getLsbD 3 = d ∧
      (flagByte [a, b, c, d, e, f]).getLsbD 4 = e ∧ (flagByte [a, b, c, d, e, f]).getLsbD 5 = f ∧
      (flagByte [a, b, c, d, e, f]).getLsbD 6 = false ∧ (flagByte [a, b, c, d, e, f]).getLsbD 7 = false := by
  decide +revert

theorem State.readyCount_le (s : State) : s.readyCount ≤ s.queue.length := List.countP_le_length

/-- Settles O8: the status word is answered, repeated in its own frame, and read bit by bit. -/
theorem readStatusAnswers : Obligations.ReadStatusAnswers := by
  unfold Obligations.ReadStatusAnswers
  refine ⟨fun form s ht => exec_readStatus_first form ht, fun form s f hs hf => ?_, fun s hq =>
    ⟨flagByte [s.starting, s.committing, s.resetPending, s.engine.frozen, s.notices.armed,
      s.notices.latched], BitVec.ofNat 8 (s.queue.length * 16 + s.readyCount), ?_, ?_⟩⟩
  · simp [exec, execReadStatus, hs, State.repeatStatus, hf]
  · unfold State.statusWord
    cases s.engine.lastCommit <;> rfl
  · have ready := s.readyCount_le
    obtain ⟨b0, b1, b2, b3, b4, b5, b6, b7⟩ := flagByte_bits s.starting s.committing s.resetPending
      s.engine.frozen s.notices.armed s.notices.latched
    refine ⟨b0, b1, b2, b3, b4, b5, b6, b7, ?_, ?_⟩ <;> rw [BitVec.toNat_ofNat] <;> omega

/-! ### Resets (R191, R192, R193) -/

theorem blocksAtReset_startUp (pending : List Instr) (selectLow : Bool) (store : Store) (k : Nat) :
    blocksAtReset (State.startUp pending selectLow store k) store :=
  ⟨rfl, rfl, rfl, rfl, rfl, rfl, rfl, rfl, fun n => Table.get_fill _ n, fun v => Table.get_map _ _ v, rfl,
    rfl, rfl, rfl, rfl⟩

/-- What a completion leaves of the pins and of a pending reset. -/
theorem State.completed_control (s : State) (f : InFlight) :
    (s.completed f).pins = s.pins ∧ (s.completed f).resetPending = s.resetPending := by
  have installed : (s.install f.change).pins = s.pins ∧
      (s.install f.change).resetPending = s.resetPending := by
    unfold State.install
    dsimp only
    split
    · simp [State.dropRemoved_eq]
    · exact ⟨rfl, rfl⟩
  rcases ((s.install f.change).withEngine { s.engine with inFlight := none }).releaseEntry_cases f with
    ⟨-, h⟩ | ⟨-, h⟩ <;> simp [State.completed, h, installed]

theorem State.completed_store (s : State) (f : InFlight) :
    (s.completed f).store = f.change.applyStore s.store := by
  simp [State.completed, (s.install_core f.change).2.1]

theorem State.storeFaulted_control (s : State) (f : InFlight) :
    (s.storeFaulted f).pins = s.pins ∧ (s.storeFaulted f).resetPending = s.resetPending ∧
      (s.storeFaulted f).store = s.store := by
  rcases (s.returned f).releaseEntry_cases f with ⟨-, h⟩ | ⟨-, h⟩ <;> rw [State.storeFaulted, h] <;>
    simp [State.returned]

theorem exec_commitComplete {s : State} {f : InFlight} (hf : s.engine.inFlight = some f) :
    exec .commitComplete s = .next (s.completed f).afterCompletion := by
  simp [exec, execCommitComplete, hf, State.complete_eq]

theorem exec_commitStoreFault {s : State} {f : InFlight} (hf : s.engine.inFlight = some f) :
    exec .commitStoreFault s = .next (s.storeFaulted f).afterCompletion := by
  simp [exec, execCommitStoreFault, hf, State.failStore_eq]

theorem State.afterCompletion_of_reset {s : State} (h : s.resetPending = true) :
    s.afterCompletion = State.startUp s.pending s.pins.selectLow s.store s.openValues := by
  simp [State.afterCompletion, h, State.softReset]

/-- Settles O9: RESET waits for its frame's end or for the commit in flight. -/
theorem resetTakesEffect : Obligations.ResetTakesEffect := by
  unfold Obligations.ResetTakesEffect
  refine ⟨fun form s hs => ⟨fun busy => ?_, fun idle => ?_⟩, fun sampled s low ordered =>
    ⟨fun idle => ⟨?_, blocksAtReset_startUp _ _ _ _⟩, fun busy => ?_⟩, fun s f hf pending =>
    ⟨⟨(s.completed f).openValues, ?_⟩, (s.storeFaulted f).openValues, ?_⟩⟩
  · simp [exec, execReset, hs, State.orderReset, State.committing, busy, Response.bare]
  · simp [exec, execReset, hs, State.orderReset, State.committing, idle, Response.bare]
  · rw [exec_frameEnd_eq low]
    simp [State.endFrame, ordered, State.committing, idle, State.softReset]
  · rw [exec_frameEnd_eq low]
    simp [State.endFrame, ordered, State.committing, busy, State.linkAfterFrame]
  · obtain ⟨pins, reset⟩ := s.completed_control f
    rw [exec_commitComplete hf, State.afterCompletion_of_reset (reset.trans pending),
      s.completed_pending f, s.completed_store f, pins]
  · obtain ⟨pins, reset, store⟩ := s.storeFaulted_control f
    rw [exec_commitStoreFault hf, State.afterCompletion_of_reset (reset.trans pending),
      s.storeFaulted_pending f, store, pins]

/-- A part held in reset takes no host command (R191). -/
theorem exec_of_held {i : Instr} {s : State} (hf : i.form.isSome = true) (h : s.pins.held = true) :
    exec i s = .next s :=
  commandsNeedOpenFrame i s (.inl hf) (by simp [State.takesCommand, h])
    (.inl (by simp [State.repeatsStatus, h]))

theorem drivenAt_no_frame {s : State} (h : s.link.frame = none) (k : Nat) : (s.drivenAt k).driven = 0#4 := by
  simp [State.drivenAt, h, DrivenLanes.released]

/-- Settles O10: the start-up state over the store the hard reset finds, held until RESET_N rises. -/
theorem hardResetAndRelease : Obligations.HardResetAndRelease := by
  unfold Obligations.HardResetAndRelease
  refine ⟨fun mark s => ⟨s.hardReset mark, rfl, ?_, rfl, rfl, rfl, fun i hf => exec_of_held hf rfl,
    drivenAt_no_frame rfl⟩, fun s held => ⟨State.startUp s.pending s.pins.selectLow s.store s.openValues, ?_,
    blocksAtReset_startUp _ _ _ _, rfl, rfl, rfl⟩⟩
  · refine (congrArg (blocksAtReset (s.hardReset mark)) ?_).mpr
      (blocksAtReset_startUp s.pending false (s.storeAtHardReset mark) s.openValues)
    unfold State.storeAtHardReset
    cases s.engine.inFlight <;> rfl
  · simp [exec, execResetNRelease, held]

/-- Settles O11: the scan's index, and STARTED raised. -/
theorem scanCompletes : Obligations.ScanCompletes := by
  unfold Obligations.ScanCompletes
  intro s starting free
  refine ⟨_, ?_, rfl⟩
  simp only [exec, execScanComplete, starting, free, Bool.not_false, Bool.and_self, if_true]
  rfl

/-- Settles O51: the start-up state over the blank store meets each invariant. -/
theorem resetMeetsInvariants : Obligations.ResetMeetsInvariants := by
  unfold Obligations.ResetMeetsInvariants State.reset
  have store : (State.startUp [] false Store.blank 0).storeSound :=
    State.storeSound_startUp [] false 0 List.Pairwise.nil (by decide) (by decide)
  have coherent := State.cursorsCoherent_startUp [] false Store.blank 0
  have lists := State.listsSound_startUp [] false 0 store (List.forall_mem_nil _)
  refine ⟨State.latchSettled_startUp _ _ _ _, State.usesSound_startUp store, coherent,
    State.queueBounded_of_empty rfl, State.readyTaken_of_empty rfl, lists,
    State.queueSound_startUp [] false 0 store,
    State.volumesSound_startUp (by simp [Store.blank]) _ _ _, lists, coherent,
    forall_cursors_iff.2 fun n hn => absurd ?_ hn⟩
  have closed : (State.startUp [] false Store.blank 0).cursors.get n = Cursor.closed := Table.get_fill _ n
  rw [closed]; rfl

end Sys2Proof.Machine
end

section
/-! SUPPORT. The lookups: what each reports of the tables as they stand, and the two lists of the catalogue
in their order. -/

namespace Sys2Proof.Machine

/-! ### Readings of the tables (R16, R39, R105, R125, R177) -/

theorem countArgument_eq (b : Byte) (greatest : Nat) :
    countArgument b greatest = if b = 0#8 then greatest else b.toNat := by
  have zero : b.toNat = 0 ↔ b = 0#8 := (BitVec.toNat_eq (x := b) (y := 0#8)).symm
  simp only [countArgument, zero]

theorem malformedArguments_eq : Response.malformedArguments = ⟨.malformed, [0x14, 0x41]⟩ := rfl

theorem exec_query {i : Instr} {answer : State → Response} {s : State}
    (h : exec i s = .next (hostQuery i answer s)) (hs : s.ready) : exec i s = .next (s.respond i (answer s)) := by
  rw [h, hostQuery_ready hs]

theorem segmentsFrom_eq (segments : List Segment) (first maximum : Nat) :
    segmentsFrom segments first maximum =
      (((segments.drop first).take maximum).zipIdx first).map fun x => (x.2, x.1) := by
  refine List.ext_getElem (by simp [segmentsFrom]) fun k _ _ => ?_
  simp [segmentsFrom]

theorem volumesListed_eq (first maximum : Nat) :
    volumesListed first maximum =
      (List.range (min maximum (64 - first))).map fun k => Fin.ofNat 64 (first + k) := by
  refine List.ext_getElem (by simp [volumesListed]) fun k hk _ => Fin.ext ?_
  have : k < min maximum (64 - first) := by simpa [volumesListed] using hk
  simp only [volumesListed, List.getElem_take, List.getElem_drop, List.getElem_finRange, List.getElem_map,
    List.getElem_range, Fin.ofNat, Fin.val_cast]
  omega

theorem bytesOf_one (x : Nat) : bytesOf 1 x = [BitVec.ofNat 8 x] := by
  simp [bytesOf]

theorem State.readyCount_eq (s : State) : s.readyCount = s.queue.countP (·.state = .ready) :=
  List.countP_congr fun e _ => by simp

theorem onCursor_malformed {cursor : Byte} (h : 15 < cursor.toNat) (inRange : Bool)
    (body : Fin 16 → State → State × Response) (s : State) :
    onCursor cursor inRange body s = (s, .malformedArguments) := by
  have none : cursorOf cursor = none := by simp [cursorOf]; omega
  simp [onCursor, none]

theorem State.readVolumes_eq (s : State) {first maximum : Byte} (hf : first.toNat ≤ 63)
    (hm : maximum.toNat ≤ 64) {count : Nat}
    (hc : count = min (if maximum = 0#8 then 64 else maximum.toNat) (64 - first.toNat)) :
    s.readVolumes first maximum = ⟨.ok, [BitVec.ofNat 8 count] ++ (List.range count).flatMap fun k =>
      bytesOf 1 (first.toNat + k) ++ [flagByte [
        (s.settings.policies.get (Fin.ofNat 64 (first.toNat + k))).registered,
        (s.settings.policies.get (Fin.ofNat 64 (first.toNat + k))).autoProbe,
        (s.settings.policies.get (Fin.ofNat 64 (first.toNat + k))).autoReturn]]
      ++ (s.volumes.get (Fin.ofNat 64 (first.toNat + k))).bytes⟩ := by
  have listed : volumesListed first.toNat (countArgument maximum 64) =
      (List.range count).map fun k => Fin.ofNat 64 (first.toNat + k) := by
    rw [volumesListed_eq, countArgument_eq, hc]
  have bounds : ¬(63 < first.toNat ∨ 64 < maximum.toNat) := by omega
  simp only [State.readVolumes, if_neg bounds, listed, List.length_map, List.length_range, List.flatMap_map]
  congr 2
  · simp [bytesOf]
  · refine List.flatMap_congr fun k hk => ?_
    have : k < count := List.mem_range.1 hk
    have : (Fin.ofNat 64 (first.toNat + k)).val = first.toNat + k := Nat.mod_eq_of_lt (by omega)
    simp only [State.volumeReport, State.policyOf, this]

/-- Settles O12: each reading is answered from its table. -/
theorem readsAnswer : Obligations.ReadsAnswer := by
  unfold Obligations.ReadsAnswer
  refine ⟨fun form accession first maximum s hs => ⟨?_, ?_⟩, fun form cursor first maximum s hs =>
    ⟨?_, fun n hn => ?_, fun h => ?_, fun count hc => ?_⟩⟩
  · rw [exec_query rfl hs, State.readItem]
    cases s.record? accession.toNat <;> rfl
  · rw [exec_query rfl hs, State.readSegments]
    by_cases bad : 63 < first.toNat ∨ 64 < maximum.toNat
    · rw [if_pos bad, if_pos bad.symm]; rfl
    · rw [if_neg bad, if_neg (bad ∘ Or.symm)]
      cases s.record? accession.toNat with
      | none => rfl
      | some r =>
        simp only [segmentsFrom_eq, countArgument_eq, List.length_map, List.length_zipIdx, List.flatMap_map]
  · rw [exec_query rfl hs, State.readPending, s.readyCount_eq, bytesOf_one, bytesOf_one]
    rfl
  · simp [exec, execReadCursor, hs, onCursor_eq hn]
  · simp [exec, execReadCursor, hs, onCursor_malformed h, malformedArguments_eq]
  · rw [exec_query rfl hs]
    split
    · rename_i h
      simp [State.readVolumes, h, malformedArguments_eq]
    · rw [s.readVolumes_eq (by omega) (by omega) hc]

/-! ### ENUMERATE (R13, R17) -/

theorem filterMap_findRecord {records : List ItemRecord}
    (h : records.Pairwise fun a b => a.accession < b.accession) :
    (records.map (·.accession)).filterMap (findRecord records) = records := by
  rw [List.filterMap_map]
  exact (List.filterMap_congr fun r hr => findRecord_of_mem h hr).trans List.filterMap_some

theorem State.enumerated_eq {s : State} (h : s.catalogueKept) (hs : s.starting = false) (start : Nat)
    (mask : Byte) : s.enumerated start mask =
      s.store.records.filter fun r => decide (start ≤ r.accession) && maskNames mask r.state := by
  have inOrder : s.index.entries.filterMap (fun e => s.record? e.accession) = s.store.records := by
    have := filterMap_findRecord h.1
    rw [← (h.2 hs).1, List.filterMap_map] at this
    exact this
  rw [State.enumerated, inOrder]

/-- What a list shows of what was found: as many as asked for, whether more follow, and the first left out. -/
theorem shown_of_found {α : Type} (found : List α) (n : Nat) :
    (found.take n).length = min n found.length ∧
      [yesNo (!(found.drop n).isEmpty)] = (if n < found.length then [1] else [0]) ∧
      (found.drop n).head? = found[n]? := by
  refine ⟨List.length_take, ?_, List.head?_drop⟩
  by_cases h : n < found.length
  · simp [h, yesNo]
  · simp [h, yesNo]

/-! ### FIND CARRIER (R14, R18) -/

theorem CarrierKey.atOrAbove_iff {k : CarrierKey} {side track accession : Nat} :
    k.atOrAbove side track accession = true ↔ side < k.side ∨ side = k.side ∧ (track < k.track ∨
      track = k.track ∧ accession ≤ k.accession) := by
  rw [CarrierKey.atOrAbove, Bool.not_eq_true', ← Bool.not_eq_true, CarrierKey.before_iff]
  dsimp only
  omega

theorem CarrierKind.ofByte_byte (k : CarrierKind) : CarrierKind.ofByte k.byte = some k := by
  cases k <;> rfl

theorem CarrierKind.byte_injective {k x : CarrierKind} (h : k.byte = x.byte) : k = x :=
  Option.some.inj (by rw [← CarrierKind.ofByte_byte k, h, CarrierKind.ofByte_byte x])

theorem CarrierKind.byte_ofByte {b : Byte} {k : CarrierKind} (h : CarrierKind.ofByte b = some k) :
    k.byte = b := by
  refine BitVec.eq_of_toNat_eq ?_
  unfold CarrierKind.ofByte at h
  split at h <;> cases h <;> exact Eq.symm ‹b.toNat = _›

/-- The kind filter of FIND CARRIER: 0 for every kind, and otherwise the kind of that byte (R18). -/
theorem ofByte_admits {b : Byte} (hb : b.toNat ≤ 7) (k : CarrierKind) :
    (∀ x, CarrierKind.ofByte b = some x → k = x) ↔ b = 0#8 ∨ k.byte = b := by
  cases found : CarrierKind.ofByte b with
  | none =>
    have zero : b = 0#8 := by
      have := mt (CarrierKind.ofByte_isSome b).2 (by simp [found] : ¬(CarrierKind.ofByte b).isSome = true)
      exact BitVec.eq_of_toNat_eq (by simp; omega)
    simp [zero]
  | some x =>
    have byte := CarrierKind.byte_ofByte found
    have ne : b ≠ 0#8 := fun h => by rw [h] at found; cases found
    refine ⟨fun h => .inr (by rw [h x rfl, byte]), fun h y hy => ?_⟩
    cases hy
    exact CarrierKind.byte_injective ((h.resolve_left ne).trans byte.symm)

/-- The record at a key of the carrier index is the one whose key it is (R14). -/
theorem State.carrierKey_of_record {s : State} (h : s.catalogueKept) (hs : s.starting = false) {k : CarrierKey}
    {r : ItemRecord} (hk : k ∈ s.index.carriers) (hr : s.record? k.accession = some r) :
    r ∈ s.store.records ∧ r.state ≠ .withdrawn ∧ r.carrierKey = k := by
  rw [(h.2 hs).2] at hk
  obtain ⟨x, hx, present, rfl⟩ := mem_carriersOf.1 hk
  have found : findRecord s.store.records x.accession = some x := findRecord_of_mem h.1 hx
  obtain rfl : x = r := Option.some.inj (found.symm.trans hr)
  exact ⟨hx, present, rfl⟩

theorem State.mem_carrierHits {s : State} (h : s.catalogueKept) (hs : s.starting = false) {carrierId : Nat}
    {kind : Option CarrierKind} {side track accession : Nat} {r : ItemRecord} :
    r ∈ s.carrierHits carrierId kind side track accession ↔ r ∈ s.store.records ∧ r.state ≠ .withdrawn ∧
      r.carrierId = carrierId ∧ (∀ x, kind = some x → r.carrierKind = x) ∧
      (side < r.side ∨ side = r.side ∧ (track < r.track ∨ track = r.track ∧ accession ≤ r.accession)) := by
  have kinds : (match kind with | none => true | some k => r.carrierKind == k) = true ↔
      ∀ x, kind = some x → r.carrierKind = x := by
    cases kind <;> simp
  simp only [State.carrierHits, List.mem_filter, List.mem_filterMap, Bool.and_eq_true, decide_eq_true_eq]
  constructor
  · rintro ⟨⟨k, ⟨hk, id, above⟩, hr⟩, hkind⟩
    obtain ⟨mem, present, rfl⟩ := s.carrierKey_of_record h hs hk hr
    exact ⟨mem, present, id, kinds.1 hkind, CarrierKey.atOrAbove_iff.1 above⟩
  · rintro ⟨mem, present, id, hkind, above⟩
    refine ⟨⟨r.carrierKey, ⟨?_, id, CarrierKey.atOrAbove_iff.2 above⟩, findRecord_of_mem h.1 mem⟩,
      kinds.2 hkind⟩
    rw [(h.2 hs).2]
    exact mem_carriersOf.2 ⟨r, mem, present, rfl⟩

theorem State.carrierHits_pairwise {s : State} (h : s.catalogueKept) (hs : s.starting = false) {carrierId : Nat}
    {kind : Option CarrierKind} {side track accession : Nat} :
    (s.carrierHits carrierId kind side track accession).Pairwise fun a b => a.side < b.side ∨
      a.side = b.side ∧ (a.track < b.track ∨ a.track = b.track ∧ a.accession < b.accession) := by
  have order : s.index.carriers.Pairwise fun a b => a.before b = true := by
    rw [(h.2 hs).2]
    exact carriersOf_pairwise h.1
  refine List.Pairwise.filter _ (List.pairwise_filterMap.2 ((order.filter _).imp_of_mem ?_))
  intro k x hk hx before a ha b hb
  simp only [List.mem_filter, Bool.and_eq_true, decide_eq_true_eq] at hk hx
  obtain ⟨-, -, rfl⟩ := s.carrierKey_of_record h hs hk.1 ha
  obtain ⟨-, -, rfl⟩ := s.carrierKey_of_record h hs hx.1 hb
  have before := CarrierKey.before_iff.1 before
  have ida : a.carrierId = carrierId := hk.2.1
  have idb : b.carrierId = carrierId := hx.2.1
  simp only [ItemRecord.carrierKey, ida, idb] at before
  omega

/-- Settles O13: both lists are the catalogue's own records in the order of their index. -/
theorem catalogueListsAnswer : Obligations.CatalogueListsAnswer := by
  unfold Obligations.CatalogueListsAnswer
  refine ⟨fun form start mask maximum s hs => ⟨fun many => ?_, fun kept few found hfound n hn => ?_⟩,
    fun form carrierId kindFilter side track start maximum s hs => ⟨fun bad => ?_,
      fun kept few kind sides => ⟨s.carrierHits carrierId.toNat
        (CarrierKind.ofByte kindFilter) side.toNat track.toNat start.toNat, fun r => ?_,
        s.carrierHits_pairwise kept hs.2.1, fun n hn => ?_⟩⟩⟩
  · rw [exec_query rfl hs, State.enumerate, if_pos many]; rfl
  · obtain ⟨length, more, next⟩ := shown_of_found found n
    rw [exec_query rfl hs, State.enumerate, if_neg (by omega), s.enumerated_eq kept hs.2.1, ← hfound,
      countArgument_eq, ← hn]
    simp only [length, more, next]
  · rw [exec_query rfl hs, State.findCarrier, if_pos bad]; rfl
  · rw [s.mem_carrierHits kept hs.2.1, ofByte_admits kind]
  · rw [exec_query rfl hs, State.findCarrier, if_neg (by omega), countArgument_eq, ← hn]
    dsimp only
    generalize s.carrierHits _ _ _ _ _ = found
    obtain ⟨length, more, next⟩ := shown_of_found found n
    rw [length, more, next]
    cases found[n]? with
    | none => simp [bytesOf]
    | some r => simp

end Sys2Proof.Machine
end

section
/-! SUPPORT. LOCATE: the checks in their order, the placing of its position, and the answer by the leaf it
resolves to. -/

namespace Sys2Proof.Machine

/-! ### The position placed (R58) and the gain saturated (R53) -/

theorem placeTarget_within {strict : Bool} {position duration : Nat}
    (h : strict = false ∨ position ≤ duration) : placeTarget strict position duration =
      .ok ⟨min position duration, decide (duration < position),
        if duration ≤ position then .above else .within⟩ := by
  have low : ¬((position : Int) < 0) := by omega
  unfold placeTarget
  rw [if_neg low]
  by_cases beyond : duration < position
  · have plain : ¬strict = true := by
      rcases h with h | h
      · simp [h]
      · omega
    rw [if_pos (by omega), if_neg plain]
    simp [beyond, beyond.le]
  · rw [if_neg (by omega)]
    by_cases h : position = duration
    · simp [h]
    · simp [h, show ¬duration ≤ position by omega, beyond,
        Nat.le_of_not_lt beyond]

theorem placeTarget_strict {position duration : Nat} (h : duration < position) :
    placeTarget true position duration = .error .above := by
  simp [placeTarget, h]

theorem saturateGain_eq (raw : Int) : saturateGain raw = max (-600) (min 120 raw) := by
  simp only [saturateGain, Config.maxGain, Config.minGain]
  split_ifs <;> omega

theorem gainHigh_eq (raw : Int) : gainHigh raw = decide (120 < raw) := rfl
theorem gainLow_eq (raw : Int) : gainLow raw = decide (raw < -600) := rfl

/-! ### The checks in their order (R45, R55, R58, R77) -/

section
variable {s : State} {form : Byte} {accession : BitVec 24} {position : BitVec 40} {clearance : Byte}

theorem exec_locate (hs : s.ready) : exec (.locate form accession position clearance) s =
    .next ((s.locate form accession.toNat position clearance).1.respond
      (.locate form accession position clearance) (s.locate form accession.toNat position clearance).2) := by
  simp only [exec, execLocate, hostCommand_ready hs]

/-- LOCATE's arguments in their ranges, and a record that it may resolve. -/
structure Locatable (s : State) (a : Nat) (position : BitVec 40) (clearance : Byte) (r : ItemRecord) :
    Prop where
  clearanceBound : clearance.toNat ≤ 7
  positionBound : position.toNat ≤ 68719476735
  stands : s.record? a = some r
  present : r.state ≠ .withdrawn
  admitted : r.restriction ≤ clearance.toNat

theorem Locatable.locate_placed {a : Nat} {r : ItemRecord} (h : Locatable s a position clearance r) :
    (∀ c, placeTarget (strictForm form) position.toNat r.duration = .error c →
      s.locate form a position clearance = (s.noteCondition form c Sticky.none, ⟨.range, []⟩)) ∧
    ∀ pl, placeTarget (strictForm form) position.toNat r.duration = .ok pl →
      s.locate form a position clearance = s.locateAt form r clearance.toNat pl := by
  obtain ⟨hc, hp, hr, hw, ha⟩ := h
  have bounds : ¬(7 < clearance.toNat ∨ Config.maxPosition < position.toNat) := by
    simp only [Config.maxPosition]; omega
  have admits : ¬clearance.toNat < r.restriction := by omega
  constructor <;> intro x hx <;>
    simp only [State.locate, if_neg bounds, hr, if_neg hw, if_neg admits, hx, Response.bare]

theorem Locatable.locate_within {a : Nat} {r : ItemRecord} (h : Locatable s a position clearance r)
    (hp : strictForm form = false ∨ position.toNat ≤ r.duration) :
    s.locate form a position clearance = s.locateAt form r clearance.toNat
      ⟨min position.toNat r.duration, decide (r.duration < position.toNat),
        if r.duration ≤ position.toNat then .above else .within⟩ := by
  exact h.locate_placed.2 _ (placeTarget_within hp)

/-! ### The answer of a resolved position (R77, R78) -/

variable {r : ItemRecord} {cl : Nat} {pl : Placing} {w : Walk}

/-- The path a LOCATE resolves on, which meets no deferral entry (R77). -/
def State.locatePath (s : State) (r : ItemRecord) (cl p : Nat) : Walk :=
  buildPath ⟨s.store.records, cl, fun _ => .none⟩ r.accession p

theorem State.locateAt_restricted (hw : s.locatePath r cl pl.position = w)
    (h : w.stop = some (.fault .restrictedTarget)) :
    s.locateAt form r cl pl = (s, ⟨.restricted, []⟩) := by
  subst hw
  unfold State.locatePath at h
  simp only [State.locateAt, h, Response.bare]

theorem State.locateAt_faulted (hw : s.locatePath r cl pl.position = w) {code : FaultCode}
    (h : w.stop = some (.fault code)) (hc : code ≠ .restrictedTarget)
    (hp : pl.position ≠ r.duration) (hn : pl.clamped = false) :
    s.locateAt form r cl pl = (s.noteCondition form .none Sticky.none, ⟨.ok, Descriptor.bytes {
      lead := w.path.length, kind := .faulted, topStart := pl.position,
      fault := some code }⟩) := by
  subst hw
  unfold State.locatePath at h ⊢
  cases code <;> simp [State.locateAt, h, hp, hn, DescriptorKind.condition, Descriptor.sticky,
    Sticky.none] at hc ⊢

theorem State.locateAt_end (hw : s.locatePath r cl pl.position = w) (h : w.stop = none)
    (hp : pl.position = r.duration) :
    s.locateAt form r cl pl = (s.noteCondition form .above (Sticky.ofPosition pl.clamped),
      ⟨.ok, Descriptor.bytes {
        lead := 1, kind := .end_, topStart := pl.position, leafAccession := r.accession,
        leafSegment := r.segments.length }⟩) := by
  subst hw
  unfold State.locatePath at h
  simp only [State.locateAt, h, if_pos hp, Descriptor.sticky, Sticky.ofPosition, Bool.or_false,
    Bool.false_and]

theorem State.locateAt_resolved (hw : s.locatePath r cl pl.position = w) (h : w.stop = none)
    (hp : pl.position ≠ r.duration) (hn : pl.clamped = false) {d : Descriptor}
    (hd : s.locateAnswer w.path pl.position = d) :
    s.locateAt form r cl pl = (s.noteCondition form d.kind.condition
      (d.sticky (rawGain s.store.records 0 w.path) false), ⟨.ok, d.bytes⟩) := by
  subst hw
  unfold State.locatePath at h hd ⊢
  simp only [State.locateAt, h, if_neg hp, hd, hn]

/-- What LOCATE delivers of a leaf with stored sound, but for the copy (R78). -/
def locatedSound (path : List PathFrame) (p : Nat) (f : PathFrame) (t : Transfer) (index : Nat)
    (raw : Int) : Descriptor :=
  { lead := path.length, kind := .unavailable, topStart := p, leafAccession := f.accession,
    leafSegment := f.segment, indexStart := index, frameBytes := t.channels * t.width, rate := t.rate,
    gainClamped := decide (120 < raw ∨ raw < -600), gain := max (-600) (min 120 raw) }

variable {path : List PathFrame} {p : Nat} {f : PathFrame} {g : Segment} {t : Transfer}

theorem State.locateAnswer_overhang (h : leafOf s.store.records path = .overhang f) :
    s.locateAnswer path p = {
      lead := path.length, kind := .gap, topStart := p, leafAccession := f.accession,
      leafSegment := f.segment } := by
  simp [State.locateAnswer, h]

theorem State.locateAnswer_lacuna (h : leafOf s.store.records path = .lacuna f g) :
    s.locateAnswer path p = {
      lead := path.length, kind := .gap, topStart := p, leafAccession := f.accession,
      leafSegment := f.segment } := by
  simp [State.locateAnswer, h]

theorem State.locateAnswer_beyond (h : leafOf s.store.records path = .transfer f g t) {index : Nat}
    (hi : t.index (deltaIn f g p) = index) (hb : t.count ≤ index) :
    s.locateAnswer path p = {
      lead := path.length, kind := .gap, topStart := p, leafAccession := f.accession,
      leafSegment := f.segment,
      indexClamped := decide (t.count < index) } := by
  simp [State.locateAnswer, h, hi, hb, Transfer.clampsAt]

/-- The answer over stored sound, by the copy chosen. -/
theorem State.locateAnswer_sound (h : leafOf s.store.records path = .transfer f g t) {index : Nat}
    (hi : t.index (deltaIn f g p) = index) (hb : index < t.count) :
    s.locateAnswer path p =
      ((t.chooseCopy s.volumes .primaryFirst).map fun x =>
        { locatedSound path p f t index (rawGain s.store.records 0 path) with
          kind := .audio, copy := some x.1, volume := x.2.volume.val, file := x.2.file,
          byteOffset := x.2.base + index * (t.channels * t.width) }).getD
      (locatedSound path p f t index (rawGain s.store.records 0 path)) := by
  have clamps : (gainHigh (rawGain s.store.records 0 path) || gainLow (rawGain s.store.records 0 path)) =
      decide (120 < rawGain s.store.records 0 path ∨ rawGain s.store.records 0 path < -600) := by
    rw [gainHigh_eq, gainLow_eq, Bool.decide_or]
  have clamped : t.clampedIndex (deltaIn f g p) = index := by
    rw [Transfer.clampedIndex, hi, min_eq_left hb.le]
  simp only [State.locateAnswer, h, hi, if_neg (Nat.not_le.2 hb), clamps, clamped, saturateGain_eq]
  cases t.chooseCopy s.volumes .primaryFirst <;> rfl

/-- The sticky flags that the gain of an answer calls for (R53, R55). -/
theorem locatedSound_sticky (index : Nat) (raw : Int) :
    (locatedSound path p f t index raw).sticky raw false =
      ⟨false, false, decide (120 < raw), decide (raw < -600)⟩ := by
  have high : (decide (120 < raw ∨ raw < -600) && decide (120 < raw)) = decide (120 < raw) := by
    by_cases h : 120 < raw <;> simp [h]
  have low : (decide (120 < raw ∨ raw < -600) && decide (raw < -600)) = decide (raw < -600) := by
    by_cases h : raw < -600 <;> simp [h]
  simp only [Descriptor.sticky, locatedSound, gainHigh_eq, gainLow_eq, high, low, Bool.or_self]

end

/-- Settles O14: the answer at the end and over stored sound. -/
theorem locateAnswers : Obligations.LocateAnswers := by
  unfold Obligations.LocateAnswers
  refine fun form accession position clearance s hs => ⟨?_, fun record p w hc hpos hr hw ha hstrict hp hpath
    hstop => ?_⟩
  · refine ⟨(s.locate form accession.toNat position clearance).1.resolution,
      (s.locate form accession.toNat position clearance).2, ?_, fun plain => ?_⟩
    · rw [exec_locate hs]
      rcases s.locate_fst form accession.toNat position clearance with h | ⟨c, f, h⟩ <;> rw [h]
      · rfl
      · rw [State.noteCondition_eq]; rfl
    · rcases s.locate_fst form accession.toNat position clearance with h | ⟨c, f, h⟩ <;> rw [h]
      simp [State.noteCondition, plain]
  · have located : Locatable s accession.toNat position clearance record := ⟨hc, hpos, hr, hw, ha⟩
    subst hp
    have path : s.locatePath record clearance.toNat (min position.toNat record.duration) = w := hpath.symm
    rw [exec_locate hs, located.locate_within hstrict]
    refine ⟨fun hend => ?_, fun f g t copy place delta hin hleaf hdelta hindex hcopy => ?_⟩
    · rw [State.locateAt_end path hstop hend]
    · have inside : decide (record.duration < position.toNat) = false := by
        simp only [decide_eq_false_iff_not]; omega
      have index : t.index (deltaIn f g (min position.toNat record.duration)) =
          delta * t.rate * t.nominal / (t.speed * 1000000) := by rw [hdelta]; rfl
      have answer := State.locateAnswer_sound hleaf index hindex
      rw [hcopy, Option.map_some, Option.getD_some] at answer
      refine ⟨_, ?_, (decide_eq_true_iff (p := 120 < rawGain s.store.records 0 w.path ∨
        rawGain s.store.records 0 w.path < -600)).trans or_comm⟩
      rw [State.locateAt_resolved path hstop hin.ne inside answer]
      have sticky := locatedSound_sticky (path := w.path) (p := min position.toNat record.duration) (f := f)
        (t := t) (delta * t.rate * t.nominal / (t.speed * 1000000)) (rawGain s.store.records 0 w.path)
      rw [← sticky]
      rfl

/-- LOCATE's refusals before its position is placed (R58, R77). -/
theorem State.locate_refused {s : State} {form : Byte} {a : Nat} {position : BitVec 40} {clearance : Byte} :
    (7 < clearance.toNat ∨ 68719476735 < position.toNat →
      s.locate form a position clearance = (s, ⟨.malformed, [0x14, 0x41]⟩)) ∧
    (clearance.toNat ≤ 7 → position.toNat ≤ 68719476735 →
      (s.record? a = none → s.locate form a position clearance = (s, ⟨.notFound, []⟩)) ∧
      ∀ r, s.record? a = some r →
        (r.state = .withdrawn →
          s.locate form a position clearance = (s, ⟨.withdrawn, bytesOf 3 (r.successor.getD 0)⟩)) ∧
        (r.state ≠ .withdrawn → clearance.toNat < r.restriction →
          s.locate form a position clearance = (s, ⟨.restricted, []⟩))) := by
  unfold State.locate
  refine ⟨fun bad => by rw [if_pos bad]; rfl, fun hc hp => ?_⟩
  have bounds : ¬(7 < clearance.toNat ∨ Config.maxPosition < position.toNat) := by
    simp only [Config.maxPosition]; omega
  rw [if_neg bounds]
  refine ⟨fun hr => by rw [hr]; rfl, fun r hr => ?_⟩
  rw [hr]
  dsimp only
  exact ⟨fun hw => by rw [if_pos hw], fun hw ha => by rw [if_neg hw, if_pos ha]; rfl⟩

/-- Settles O15: the refusals in their order, and the answers with no sound to give. -/
theorem locateElsewhere : Obligations.LocateElsewhere := by
  unfold Obligations.LocateElsewhere
  rintro form accession position clearance s hs answers rfl
  rw [exec_locate hs]
  obtain ⟨malformed, rest⟩ := s.locate_refused (form := form) (a := accession.toNat) (position := position)
    (clearance := clearance)
  refine ⟨fun bad => by rw [malformed bad], fun hc hpos => ⟨fun hr => by rw [(rest hc hpos).1 hr],
    fun record hr => ⟨fun hw => by rw [((rest hc hpos).2 record hr).1 hw],
      fun hw ha => by rw [((rest hc hpos).2 record hr).2 hw ha], fun hw ha => ?_⟩⟩⟩
  have located : Locatable s accession.toNat position clearance record := ⟨hc, hpos, hr, hw, ha⟩
  refine ⟨fun strict beyond => ?_, fun inside w raw hpath hraw => ?_⟩
  · rw [located.locate_placed.1 .above (by rw [strict, placeTarget_strict beyond])]
  · have place : s.locate form accession.toNat position clearance =
        s.locateAt form record clearance.toNat ⟨position.toNat, false, .within⟩ := by
      rw [located.locate_within (.inr inside.le), min_eq_left inside.le, if_neg (by omega),
        decide_eq_false (by omega)]
    have path : s.locatePath record clearance.toNat position.toNat = w := hpath.symm
    rw [place]
    refine ⟨fun stop => by
      rw [State.locateAt_restricted (pl := ⟨position.toNat, false, .within⟩) path stop],
      fun code stop hcode => by
      rw [State.locateAt_faulted (pl := ⟨position.toNat, false, .within⟩) path stop hcode
        inside.ne rfl], fun stop => ⟨fun f hleaf => ?_,
        fun f g t delta index hleaf hdelta hindex => ⟨fun hb => ?_, fun hb hcopy => ?_⟩⟩⟩
    · have answer : s.locateAnswer w.path position.toNat = {
          lead := w.path.length, kind := .gap, topStart := position.toNat, leafAccession := f.accession,
          leafSegment := f.segment } := by
        rcases hleaf with h | ⟨g, h⟩
        · exact State.locateAnswer_overhang h
        · exact State.locateAnswer_lacuna h
      rw [State.locateAt_resolved (pl := ⟨position.toNat, false, .within⟩) path stop inside.ne rfl answer]; rfl
    · have at_ : t.index (deltaIn f g position.toNat) = index := by rw [hindex, hdelta]; rfl
      rw [State.locateAt_resolved (pl := ⟨position.toNat, false, .within⟩) path stop inside.ne rfl
        (State.locateAnswer_beyond hleaf at_ hb)]
      rfl
    · have at_ : t.index (deltaIn f g position.toNat) = index := by rw [hindex, hdelta]; rfl
      have answer := State.locateAnswer_sound (s := s) hleaf at_ hb
      rw [hcopy, Option.map_none, Option.getD_none, ← hraw] at answer
      rw [State.locateAt_resolved (pl := ⟨position.toNat, false, .within⟩) path stop inside.ne rfl
        answer, ← hraw, locatedSound_sticky]
      rfl

end Sys2Proof.Machine
end

section
/-! SUPPORT. The acceptance checks and the routing of a change: one answer for each step of R134 and R140, and
the tables that each step reads. -/

namespace Sys2Proof.Machine

/-! ### A change command and its change (R133, R134) -/

section
variable {i : Instr} {c : Change} {strict : Bool} {s : State}

/-- A change command makes its change through the acceptance checks. -/
theorem exec_change (hw : i.wellFormed = true) (hc : s.changeOf i = some (c, strict)) (hs : s.ready) :
    exec i s = .next ((s.acceptChange c strict).1.respond i (s.acceptChange c strict).2) := by
  cases i <;> cases hc
  case writeItem.refl form header segments =>
    have count : segments.length = expectedSegments header.segmentCount := by
      simpa [Instr.wellFormed] using hw
    simp only [exec, execWriteItem, ← count, lt_irrefl, if_false, List.take_length, hostCommand_ready hs]
  case amendSegments.refl form a first k m run =>
    have count : run.length = expectedSegments m := by simpa [Instr.wellFormed] using hw
    simp only [exec, execAmendSegments, ← count, lt_irrefl, if_false, List.take_length, hostCommand_ready hs]
  all_goals exact congrArg Host.Outcome.next (hostCommand_ready hs)

theorem acceptChange_frozen (h : s.engine.frozen = true) : s.acceptChange c strict = (s, ⟨.frozen, []⟩) := by
  simp [State.acceptChange, h, Response.bare]

theorem acceptChange_protected (hf : s.engine.frozen = false) (h : s.protectsChange c = true) :
    s.acceptChange c strict = (s, ⟨.underProtection, []⟩) := by
  simp [State.acceptChange, hf, h, Response.bare]

theorem acceptChange_recordRefused (hf : s.engine.frozen = false) (hp : s.protectsChange c = false)
    {code : ResultCode} (h : s.recordRefusal c strict = some code) :
    s.acceptChange c strict = (s, ⟨code, []⟩) := by
  simp [State.acceptChange, hf, hp, h, Response.bare]

theorem acceptChange_contentRefused (hf : s.engine.frozen = false) (hp : s.protectsChange c = false)
    (hr : s.recordRefusal c strict = none) {answer : Response} (h : s.contentRefusal c = some answer) :
    s.acceptChange c strict = (s, answer) := by
  simp [State.acceptChange, hf, hp, hr, h]

theorem acceptChange_entryRefused (hf : s.engine.frozen = false) (hp : s.protectsChange c = false)
    (hr : s.recordRefusal c strict = none) (hc : s.contentRefusal c = none) (h : s.entryRefusal c = true) :
    s.acceptChange c strict = (s, ⟨.pendingExists, []⟩) := by
  simp [State.acceptChange, hf, hp, hr, hc, h, Response.bare]

theorem acceptChange_routed (h : s.passesChecks c strict) : s.acceptChange c strict = s.route c := by
  obtain ⟨hf, hp, hr, hc, he⟩ := h
  simp [State.acceptChange, hf, hp, hr, hc, he]

end

/-- Settles O16: each check answers when those before it pass. -/
theorem acceptanceOrder : Obligations.AcceptanceOrder := by
  unfold Obligations.AcceptanceOrder
  intro i c strict s hw hc hs
  rw [exec_change hw hc hs]
  exact ⟨fun h => by rw [acceptChange_frozen h], fun hf h => by rw [acceptChange_protected hf h],
    fun code hf hp h => by rw [acceptChange_recordRefused hf hp h],
    fun answer hf hp hr h => by rw [acceptChange_contentRefused hf hp hr h],
    fun hf hp hr hcont h => by rw [acceptChange_entryRefused hf hp hr hcont h]⟩

/-! ### The record state step (R7, R136) -/

theorem recordRefusal_named {c : Change} (h : c.namesItem = true) (s : State) (strict : Bool) :
    s.recordRefusal c strict = recordStateRefusal c strict ((s.record? c.accession).map (·.state))
      (s.index.useCount c.accession) := by
  cases c
  case clearHoldings | storeSettings => cases h
  all_goals rfl

theorem recordRefusal_clearHoldings (s : State) (strict : Bool) : s.recordRefusal .clearHoldings strict =
    if ∃ n, (s.cursors.get n).state ≠ .closed then some .inUse else none := by
  have some_open : s.cursors.list.any (fun x => x.state ≠ .closed) = true ↔
      ∃ n, (s.cursors.get n).state ≠ .closed := by
    simp [List.any_eq_true, Table.mem_list_iff]
  simp only [State.recordRefusal, some_open]

theorem certifiedAdmits_iff {f : WireFields} : certifiedAdmits f = true ↔
    ¬(f.namesTrim ∨ f.namesKind ∨ f.namesCarrierId ∨ f.namesSide ∨ f.namesTrack ∨
      (f.namesGrade ∧ f.grade = 0#8)) := by
  cases hg : f.namesGrade <;> simp [certifiedAdmits, and_assoc, hg]

/-- Every cell of the table in R7 for a change that names an item. -/
theorem recordRefusal_table {c : Change} (h : c.namesItem = true) (s : State) (strict : Bool) :
    (c.kind = .writeItem → s.record? c.accession = none → s.recordRefusal c strict = none) ∧
    (c.kind ≠ .writeItem → s.record? c.accession = none →
      s.recordRefusal c strict = some .notFound) ∧
    ∀ r, s.record? c.accession = some r →
      (c.kind = .writeItem → strict = true → s.recordRefusal c strict = some .exists_) ∧
      (c.kind = .writeItem → strict = false →
        s.recordRefusal c strict = recordStateRefusal (.certifyItem 0) false (some r.state) 0) ∧
      (c.kind = .amendSegments ∨ c.kind = .certifyItem ∨ c.kind = .retireItem →
        s.recordRefusal c strict = recordStateRefusal (.certifyItem 0) false (some r.state) 0) ∧
      (∀ a fields, c = .setItemFields a fields →
        s.recordRefusal c strict = recordStateRefusal (.setItemFields 0 fields) false (some r.state) 0) ∧
      (c.kind = .purgeItem → s.recordRefusal c strict =
        recordStateRefusal (.purgeItem 0) false (some r.state) (s.index.useCount c.accession)) := by
  rw [recordRefusal_named h]
  refine ⟨fun hk hr => ?_, fun hk hr => ?_, fun r hr => ⟨fun hk hs => ?_, fun hk hs => ?_, fun hk => ?_,
    fun a fields hk => ?_, fun hk => ?_⟩⟩ <;> rw [hr]
  · cases c <;> cases hk
    rfl
  · cases c
    case writeItem => exact absurd rfl hk
    case clearHoldings | storeSettings => cases h
    all_goals rfl
  · cases c <;> cases hk
    simp [recordStateRefusal, hs]
  · cases c <;> cases hk
    cases hstate : r.state <;> simp [recordStateRefusal, hs, hstate]
  · cases c <;> simp only [Change.kind, reduceCtorEq, or_self, or_false, or_true] at hk <;>
      cases hstate : r.state <;> simp [recordStateRefusal, hstate]
  · cases hk
    cases hstate : r.state <;> simp [recordStateRefusal, hstate]
  · cases c <;> cases hk
    cases hstate : r.state <;> simp [recordStateRefusal, hstate]

/-! ### The content step of CERTIFY ITEM, RETIRE ITEM and SET ITEM FIELDS (R137, R138) -/

theorem findIdx?_of_first {α : Type} {p : α → Bool} {before after : List α} {x : α}
    (hb : ∀ y ∈ before, p y = false) (hx : p x = true) :
    (before ++ x :: after).findIdx? p = some before.length := by
  induction before with
  | nil => simp [List.findIdx?_cons, hx]
  | cons y rest ih =>
    have ih := ih fun z hz => hb z (List.mem_cons_of_mem _ hz)
    simp [List.findIdx?_cons, hb y List.mem_cons_self, ih]

theorem Segment.isReference_iff {g : Segment} :
    g.isReference = true ↔ ∃ trim target offset, g.body = .reference trim target offset := by
  unfold Segment.isReference
  cases g.body <;> simp

theorem Segment.lacksSecondary_iff {g : Segment} :
    g.lacksSecondary = true ↔ ∃ trim d, g.body = .transfer trim d ∧ d.secondary = none := by
  unfold Segment.lacksSecondary
  cases g.body <;> simp

theorem Segment.not_isReference {g : Segment}
    (h : ∀ trim target offset, g.body ≠ .reference trim target offset) : g.isReference = false := by
  rw [← Bool.not_eq_true, Segment.isReference_iff]
  rintro ⟨trim, target, offset, e⟩
  exact h _ _ _ e

theorem Segment.not_lacksSecondary {g : Segment}
    (h : ∀ trim d, g.body = .transfer trim d → d.secondary ≠ none) : g.lacksSecondary = false := by
  rw [← Bool.not_eq_true, Segment.lacksSecondary_iff]
  rintro ⟨trim, d, e, hd⟩
  exact h _ _ e hd

section
variable {r : ItemRecord}

theorem certifyReport_grade (h : r.grade = 0) : certifyReport r = some ⟨.grade, .header⟩ := by
  simp [certifyReport, h]

theorem certifyReport_reference (hg : r.grade ≠ 0) {i : Nat}
    (h : r.segments.findIdx? (·.isReference) = some i) :
    certifyReport r = some ⟨.reference, .segment i⟩ := by
  simp [certifyReport, hg, h]

theorem certifyReport_secondary (hg : r.grade ≠ 0) (hr : r.segments.findIdx? (·.isReference) = none) {i : Nat}
    (h : r.segments.findIdx? (·.lacksSecondary) = some i) :
    certifyReport r = some ⟨.noSecondary, .segment i⟩ := by
  simp [certifyReport, hg, hr, h]

theorem certifyReport_none (hg : r.grade ≠ 0) (hr : r.segments.findIdx? (·.isReference) = none)
    (h : r.segments.findIdx? (·.lacksSecondary) = none) : certifyReport r = none := by
  simp [certifyReport, hg, hr, h]

theorem contentRefusal_certifyItem {s : State} {a : Nat} (h : s.record? a = some r) :
    s.contentRefusal (.certifyItem a) =
      (certifyReport r).map fun report => ⟨.incomplete, report.bytes⟩ := by
  simp [State.contentRefusal, h]

end

theorem standsAsSuccessor_iff {s : State} {a : Nat} :
    standsAsSuccessor s.store.records a = true ↔ ∃ r, s.record? a = some r ∧ r.state ≠ .withdrawn := by
  unfold standsAsSuccessor State.record?
  cases findRecord s.store.records a <;> simp

theorem contentRefusal_retireItem (s : State) (a successor : Nat) :
    (s.contentRefusal (.retireItem a successor) = none ↔ successor = 0 ∨ successor ≠ a ∧
      ∃ r, s.record? successor = some r ∧ r.state ≠ .withdrawn) ∧
    ∀ answer, s.contentRefusal (.retireItem a successor) = some answer →
      answer = ⟨.malformed, [0x13, 0x41]⟩ := by
  simp only [State.contentRefusal, ← standsAsSuccessor_iff]
  split
  · rename_i h
    refine ⟨⟨nofun, ?_⟩, fun answer h => (Option.some.inj h).symm⟩
    rintro (h0 | ⟨hne, hs⟩)
    · exact absurd h0 h.1
    · rcases h.2 with e | e
      · exact absurd e hne
      · exact absurd hs e
  · rename_i h
    refine ⟨⟨fun _ => ?_, fun _ => rfl⟩, nofun⟩
    by_cases h0 : successor = 0
    · exact .inl h0
    · simp only [not_and, not_or, not_not] at h
      exact .inr (h h0)

theorem fieldsPass_iff {f : WireFields} : fieldsPass f = true ↔
    (f.namesTrim ∨ f.namesRestriction ∨ f.namesGrade ∨ f.namesKind ∨ f.namesCarrierId ∨
      f.namesSide ∨ f.namesTrack) ∧
    (f.namesTrim → -600 ≤ f.trim.toInt ∧ f.trim.toInt ≤ 120) ∧
    (f.namesRestriction → f.restriction.toNat ≤ 7) ∧ (f.namesGrade → f.grade.toNat ≤ 5) ∧
    (f.namesKind → 1 ≤ f.carrierKind.toNat ∧ f.carrierKind.toNat ≤ 7) ∧
    (f.namesCarrierId → 1 ≤ f.carrierId.toNat) ∧ (f.namesSide → f.side.toNat ≤ 15) := by
  have implies : ∀ a b : Bool, (!a || b) = true ↔ (a = true → b = true) := by decide
  simp only [fieldsPass, Bool.and_eq_true, Bool.or_eq_true, implies, trimInRange, decide_eq_true_eq,
    CarrierKind.ofByte_isSome, Config.minGain, Config.maxGain, and_assoc, or_assoc]

theorem contentRefusal_setItemFields (s : State) (a : Nat) (f : WireFields) :
    (s.contentRefusal (.setItemFields a f) = none ↔ fieldsPass f = true) ∧
    ∀ answer, s.contentRefusal (.setItemFields a f) = some answer →
      answer = ⟨.malformed, [0x01, 0x41]⟩ := by
  simp only [State.contentRefusal]
  split
  · exact ⟨by simp [*], nofun⟩
  · exact ⟨by simp [*], fun answer h => (Option.some.inj h).symm⟩

/-! ### The protection and pending entry steps (R135, R139) -/

theorem protects_iff {st : Settings} {a : Nat} : st.protects a = true ↔ st.protectionEnabled = true ∧
    (if st.protectionInvert = true then a < st.protectionLow ∨ st.protectionHigh < a
    else st.protectionLow ≤ a ∧ a ≤ st.protectionHigh) := by
  unfold Settings.protects
  cases st.protectionInvert <;> simp

theorem protectsChange_named {s : State} {c : Change} (h : c.namesItem = true) :
    s.protectsChange c = s.settings.protects c.accession := by
  cases c
  case clearHoldings | storeSettings => cases h
  all_goals rfl

theorem entryRefusal_named {s : State} {c : Change} (h : c.namesItem = true) :
    s.entryRefusal c = true ↔ ∃ e ∈ s.queue, e.accession = c.accession := by
  have entry : s.entryRefusal c = (s.entry? c.accession).isSome := by
    cases c
    case clearHoldings | storeSettings => cases h
    all_goals rfl
  rw [entry, State.entry?, List.find?_isSome]
  simp

/-- Settles O17: the tables of the acceptance checks, step by step. -/
theorem checksFollowTables : Obligations.ChecksFollowTables := by
  unfold Obligations.ChecksFollowTables
  refine ⟨fun s c strict h => ?_, fun s strict => ⟨recordRefusal_clearHoldings s strict, fun _ => rfl⟩,
    fun s a => protects_iff, fun s c => protectsChange_named, fun s => ⟨by
      simp [State.protectsChange], fun _ => rfl⟩,
    fun s a r hr => ?_, contentRefusal_retireItem, fun s a f =>
      ⟨(contentRefusal_setItemFields s a f).1.trans fieldsPass_iff, (contentRefusal_setItemFields s a f).2⟩,
    fun s c => ⟨entryRefusal_named, by simp [State.entryRefusal], fun _ => rfl⟩⟩
  · obtain ⟨create, missing, cells⟩ := recordRefusal_table h s strict
    refine ⟨create, missing, fun r hr => ?_⟩
    obtain ⟨exists_, replace, others, fields, purge⟩ := cells r hr
    refine ⟨exists_, fun hk hs => ?_, fun hk => ?_, fun a f hk => ?_, fun hk => ?_⟩
    · rw [replace hk hs]; cases r.state <;> rfl
    · rw [others hk]; cases r.state <;> rfl
    · rw [fields a f hk]
      cases r.state
      case certified =>
        simp only [recordStateRefusal, certifiedAdmits_iff, ite_not]
      all_goals rfl
    · rw [purge hk]; cases r.state <;> rfl
  · rw [contentRefusal_certifyItem hr]
    refine ⟨fun hg => by rw [certifyReport_grade hg]; rfl, fun hg before g after hseg hb hx => ?_,
      fun hg href => ?_⟩
    · have first : r.segments.findIdx? (·.isReference) = some before.length := by
        rw [hseg]
        exact findIdx?_of_first (fun x hx => Segment.not_isReference (hb x hx)) (Segment.isReference_iff.2 hx)
      rw [certifyReport_reference hg first]; rfl
    · have none_ : r.segments.findIdx? (·.isReference) = none :=
        List.findIdx?_eq_none_iff.2 fun x hx => Segment.not_isReference (href x hx)
      refine ⟨fun before g after hseg hb hx => ?_, fun hall => ?_⟩
      · have first : r.segments.findIdx? (·.lacksSecondary) = some before.length := by
          rw [hseg]
          exact findIdx?_of_first (fun x hx => Segment.not_lacksSecondary (hb x hx))
            (Segment.lacksSecondary_iff.2 hx)
        rw [certifyReport_secondary hg none_ first]; rfl
      · rw [certifyReport_none hg none_
          (List.findIdx?_eq_none_iff.2 fun x hx => Segment.not_lacksSecondary (hall x hx))]
        rfl

/-! ### The routing step (R133, R140) -/

section
variable {s : State} {c : Change}

theorem blockedByFlight_eq_true {f : InFlight} (hf : s.engine.inFlight = some f)
    (h : f.change.kind = .clearHoldings ∨
      (c.namesItem = true ∧ f.change.namesItem = true ∧ f.change.accession = c.accession)) :
    s.blockedByFlight c = true := by
  rcases h with h | ⟨h1, h2, h3⟩
  · simp [State.blockedByFlight, hf, h]
  · simp [State.blockedByFlight, hf, h1, h2, h3]

theorem blockedByFlight_idle (h : s.engine.inFlight = none) : s.blockedByFlight c = false := by
  simp [State.blockedByFlight, h]

/-- A change that cannot wait, or has nothing in use to wait for (R140). -/
def State.direct (s : State) (c : Change) : Prop :=
  c.deferrable s.store.records = false ∨ s.index.useCount c.accession = 0

theorem not_deferred (h : s.direct c) :
    (c.deferrable s.store.records && decide (0 < s.index.useCount c.accession)) = false := by
  rcases h with h | h <;> simp [h]

theorem route_blocked (h : s.blockedByFlight c = true) : s.route c = (s, ⟨.busy, []⟩) := by
  simp [State.route, h, Response.bare]

theorem route_busy (h : s.direct c) (busy : s.engine.inFlight.isSome = true) :
    s.route c = (s, ⟨.busy, []⟩) := by
  cases hb : s.blockedByFlight c <;>
    simp [State.route, hb, not_deferred h, State.committing, busy, Response.bare]

theorem route_noSpace (h : s.direct c) (idle : s.engine.inFlight = none)
    (lacks : s.index.vacantSlots < c.slotsNeeded s.store.records ∨
      s.index.freeSegments < c.segmentsNeeded) : s.route c = (s, ⟨.noSpace, []⟩) := by
  simp [State.route, blockedByFlight_idle idle, not_deferred h, State.committing, idle, State.lacksSpace,
    lacks, Response.bare]

theorem route_accepted (h : s.direct c) (idle : s.engine.inFlight = none)
    (slots : c.slotsNeeded s.store.records ≤ s.index.vacantSlots)
    (segments : c.segmentsNeeded ≤ s.index.freeSegments) :
    s.route c = (s.startCommit c .direct, ⟨.accepted, bytesOf 3 c.accession ++ [c.kind.byte]⟩) := by
  simp [State.route, blockedByFlight_idle idle, not_deferred h, State.committing, idle, State.lacksSpace,
    slots.not_gt, segments.not_gt]

theorem route_queueFull (free : s.blockedByFlight c = false) (hd : c.deferrable s.store.records = true)
    (used : 0 < s.index.useCount c.accession) (full : 8 ≤ s.queue.length) :
    s.route c = (s, ⟨.queueFull, []⟩) := by
  simp [State.route, free, hd, used, full.not_gt, Config.queueSize, Response.bare]

theorem route_deferred (free : s.blockedByFlight c = false) (hd : c.deferrable s.store.records = true)
    (used : 0 < s.index.useCount c.accession) (room : s.queue.length < 8) :
    s.route c = (((s.joined c).reachStages c.accession).proceed,
      ⟨.deferred, [BitVec.ofNat 8 (s.queue.length + 1)]⟩) := by
  simp [State.route, free, hd, used, room, Config.queueSize, State.join_eq, bytesOf_one]

/-! ### An entry that joins (R158, R159, R167) -/

/-- No entry stood for the accession, so the entry that joins is the one for it. -/
theorem joined_entry? (h : ∀ e ∈ s.queue, e.accession ≠ c.accession) :
    (s.joined c).entry? c.accession = some ⟨c.accession, c, .waiting, 0, 0⟩ := by
  have none_ : s.queue.find? (fun e => e.accession == c.accession) = none :=
    List.find?_eq_none.2 fun e he => by simpa using h e he
  simp [State.entry?, State.joined, none_]

/-- With tHOLD1 above 0 an entry that joins reaches no stage. -/
theorem joined_reachStages (h : ∀ e ∈ s.queue, e.accession ≠ c.accession) (ht : 0 < s.settings.tHold1) :
    (s.joined c).reachStages c.accession = s.joined c := by
  rcases (s.joined c).reachStages_entry c.accession with ⟨e, -⟩ | ⟨e, t, -, he, -, hne, -⟩
  · exact e
  · refine absurd ?_ hne
    obtain rfl := Option.some.inj ((joined_entry? h).symm.trans he)
    refine List.eq_nil_iff_forall_not_mem.2 fun k hk => ?_
    obtain ⟨range, -, due⟩ := mem_dueStages.1 hk
    have first : s.settings.tHold1 ≤ s.settings.threshold k := by
      obtain rfl | rfl | rfl : k = 1 ∨ k = 2 ∨ k = 3 := by omega
      all_goals simp [Settings.threshold]
    have : s.settings.threshold k ≤ 0 := due
    omega

/-- With tHOLD1 at 0 an entry that joins reaches stage 1 or a later one. -/
theorem joined_stage (thawed : s.engine.frozen = false) (h : ∀ e ∈ s.queue, e.accession ≠ c.accession)
    (ht : s.settings.tHold1 = 0) :
    ∀ e ∈ ((s.joined c).reachStages c.accession).queue, e.accession = c.accession → 1 ≤ e.stage := by
  have due : 1 ∈ Entry.dueStages ⟨c.accession, c, .waiting, 0, 0⟩ (s.joined c).settings :=
    mem_dueStages.2 ⟨by omega, by simp, by simpa [Settings.threshold, State.joined] using ht⟩
  rcases (s.joined c).reachStages_entry c.accession with ⟨-, none_⟩ | ⟨e, t, -, he, -, hne, ht, hq, -⟩
  · rw [none_ _ thawed (joined_entry? h) rfl] at due
    cases due
  · obtain rfl := Option.some.inj ((joined_entry? h).symm.trans he)
    rw [ht, State.settleCounts_queue, hq]
    intro x hx ha
    obtain ⟨y, hy, rfl⟩ := List.mem_map.1 hx
    obtain ⟨z, -, rfl⟩ := List.mem_map.1 hy
    rw [Entry.follow_stage]
    split
    · exact Entry.le_getLast_dueStages hne due
    · rename_i other
      rw [Entry.follow_accession, if_neg other] at ha
      exact absurd ha other

theorem joined_proceed (h : s.readyTaken) : (s.joined c).proceed = s.joined c := by
  refine State.proceed_of_none fun hm => ?_
  have ready := h hm
  simpa [State.readyCount, State.joined] using ready

end

/-- The engine's take leaves every entry's stage. -/
theorem proceed_stage {s : State} {a k : Nat} (h : ∀ e ∈ s.queue, e.accession = a → k ≤ e.stage) :
    ∀ e ∈ s.proceed.queue, e.accession = a → k ≤ e.stage := by
  refine State.proceed_keeps (P := fun t => ∀ e ∈ t.queue, e.accession = a → k ≤ e.stage)
    (fun t e o ht _ _ _ x hx => ?_) (fun t e ht _ _ _ x hx => ?_) h
  · rw [State.lateFailure_queue] at hx
    exact ht x (List.mem_filter.1 hx).1
  · have hx : x ∈ modifyEntry e.accession (fun x => { x with state := .committing }) t.queue := hx
    obtain ⟨y, hy, rfl⟩ := List.mem_map.1 hx
    have held := ht y hy
    split
    · exact held
    · exact held

/-- Settles O18: the routing of a change that passes its checks. -/
theorem changeRouted : Obligations.ChangeRouted := by
  unfold Obligations.ChangeRouted
  have apart : ∀ {s : State} {c : Change} {strict : Bool}, s.passesChecks c strict →
      c.deferrable s.store.records = true → ∀ e ∈ s.queue, e.accession ≠ c.accession :=
    fun checks hd => State.entryRefusal_eq_false (Change.namesItem_of_deferrable hd) checks.2.2.2.2
  refine ⟨fun i c strict s hw hc hs checks idle direct slots segments => ?_,
    fun i c strict s hw hc hs checks free hd used => ⟨fun room joined hj => ⟨fun taken ht => ?_, ?_⟩,
      fun full => ?_⟩, ?_,
    fun i c strict s hw hc hs checks => ⟨fun f hf h => ?_, fun direct => ⟨fun busy => ?_, fun idle lacks => ?_⟩⟩⟩
  · rw [exec_change hw hc hs, acceptChange_routed checks, route_accepted direct idle slots segments]
    rfl
  · rw [exec_change hw hc hs, acceptChange_routed checks, route_deferred free hd used room,
      joined_reachStages (apart checks hd) ht, joined_proceed taken, hj]
    rfl
  · refine ⟨((s.joined c).reachStages c.accession).proceed, ?_, fun accession ha => ?_, fun ht => ?_⟩
    · rw [exec_change hw hc hs, acceptChange_routed checks, route_deferred free hd used room]
    · rw [hj.trans (show _ = s.joined c from rfl)]
      simp only [exec, execStageReached, ha]
    · exact proceed_stage (joined_stage checks.1 (apart checks hd) ht)
  · rw [exec_change hw hc hs, acceptChange_routed checks, route_queueFull free hd used full]
  · rintro records needs rfl
    refine ⟨fun h segments => ⟨?_, rfl, ?_⟩, fun _ _ _ _ _ => ⟨rfl, rfl, rfl⟩, fun _ _ => ⟨rfl, rfl, rfl⟩,
      fun _ _ => ⟨rfl, rfl, rfl⟩, fun _ => ⟨rfl, rfl, rfl⟩, fun _ => ⟨rfl, rfl, rfl⟩, ⟨rfl, rfl, rfl⟩,
      fun _ => ⟨rfl, rfl, rfl⟩⟩
    · cases hr : findRecord records h.accession.toNat <;> simp [Change.slotsNeeded, hr]
    · cases hr : findRecord records h.accession.toNat <;> simp [Change.deferrable, hr]
  · rw [exec_change hw hc hs, acceptChange_routed checks, route_blocked (blockedByFlight_eq_true hf h)]
  · rw [exec_change hw hc hs, acceptChange_routed checks, route_busy direct busy]
  · rw [exec_change hw hc hs, acceptChange_routed checks, route_noSpace direct idle lacks]

end Sys2Proof.Machine
end

section
/-! SUPPORT. The end of a change: a completion, a STORE_FAULT, a cancelled entry, and the engine's take of the
oldest READY entry (sections 7.3 and 8.5). -/

namespace Sys2Proof.Machine

/-! ### One entry of a queue -/

/-- In a queue that holds one entry an accession, the others are of other accessions. -/
theorem accession_ne_of_nodup {before after : List Entry} {e : Entry}
    (h : ((before ++ e :: after).map (·.accession)).Nodup) :
    (∀ x ∈ before, x.accession ≠ e.accession) ∧ ∀ x ∈ after, x.accession ≠ e.accession := by
  simp only [List.map_append, List.map_cons, List.nodup_middle, List.nodup_cons, List.mem_append,
    List.mem_map, not_or, not_exists, not_and] at h
  exact h.1

/-- In such a queue, rewriting an entry leaves the ones around it. -/
theorem modifyEntry_of_nodup {before after : List Entry} {e : Entry} (f : Entry → Entry)
    (h : ((before ++ e :: after).map (·.accession)).Nodup) :
    modifyEntry e.accession f (before ++ e :: after) = before ++ f e :: after := by
  obtain ⟨hb, ha⟩ := accession_ne_of_nodup h
  simp only [modifyEntry, List.map_append, List.map_cons, if_pos]
  congr 1
  · exact (List.map_congr_left fun x hx => if_neg (hb x hx)).trans before.map_id
  · exact congrArg _ ((List.map_congr_left fun x hx => if_neg (ha x hx)).trans after.map_id)

/-- In such a queue, taking the accession's entries out takes that one out. -/
theorem filter_of_nodup {before after : List Entry} {e : Entry}
    (h : ((before ++ e :: after).map (·.accession)).Nodup) :
    (before ++ e :: after).filter (fun x => x.accession ≠ e.accession) = before ++ after := by
  obtain ⟨hb, ha⟩ := accession_ne_of_nodup h
  rw [List.filter_append, List.filter_cons_of_neg (by simp),
    List.filter_eq_self.2 (fun x hx => by simpa using hb x hx),
    List.filter_eq_self.2 (fun x hx => by simpa using ha x hx)]

/-! ### The engine's take (R148, R150, R162) -/

section
variable {s : State} {e : Entry} {before after : List Entry}

theorem exec_takeReadyEntry (s : State) : exec .takeReadyEntry s = .next s.proceed := rfl

theorem oldestReady_of_split (hq : s.queue = before ++ e :: after) (hb : ∀ x ∈ before, x.state ≠ .ready)
    (he : e.state = .ready) : s.oldestReady = some e := by
  have none : before.find? (fun e => e.state == .ready) = none := by simpa using hb
  simp [State.oldestReady, hq, List.find?_append, none, he]

theorem readyCount_eq_zero : s.readyCount = 0 ↔ ∀ x ∈ s.queue, x.state ≠ .ready := by
  simp [State.readyCount]

theorem recheck_protected (h : s.settings.protects e.accession = true) :
    s.recheck e = some .protection := by
  simp [State.recheck, h]

theorem recheck_noSpace (hp : s.settings.protects e.accession = false)
    (h : s.index.freeSegments < e.payload.segmentsNeeded) : s.recheck e = some .noSpace := by
  simp [State.recheck, hp, h]

/-- Past protection and space, a re-check fails for a successor alone. -/
theorem recheck_eq_some (hp : s.settings.protects e.accession = false)
    (hs : e.payload.segmentsNeeded ≤ s.index.freeSegments) {a successor : Nat}
    (he : e.payload = .retireItem a successor) (hn : successor ≠ 0)
    (h : standsAsSuccessor s.store.records successor = false) : s.recheck e = some .successorInvalid := by
  rw [State.recheck, if_neg (by simp [hp]), if_neg (Nat.not_lt.2 hs)]
  simp [he, hn, h]

theorem recheck_eq_none (hp : s.settings.protects e.accession = false)
    (hs : e.payload.segmentsNeeded ≤ s.index.freeSegments)
    (h : ∀ a successor, e.payload = .retireItem a successor → successor ≠ 0 →
      standsAsSuccessor s.store.records successor = true) : s.recheck e = none := by
  simp only [State.recheck, hp, Bool.false_eq_true, if_false, Nat.not_lt.2 hs]
  cases hc : e.payload
  case retireItem a successor =>
    by_cases hn : successor = 0
    · simp [hn]
    · simp [hn, h a successor hc hn]
  all_goals rfl

/-- An entry that passes its re-checks is taken. -/
theorem proceed_of_passes (hm : s.mayTake = true) (ho : s.oldestReady = some e) (hr : s.recheck e = none) :
    s.proceed = (s.withQueue (modifyEntry e.accession (fun x => { x with state := .committing })
      s.queue)).startCommit e.payload .queue := by
  obtain ⟨n, hn⟩ := Nat.exists_eq_succ_of_ne_zero
    (List.length_pos_of_mem (State.mem_of_oldestReady ho).1).ne'
  simp [State.proceed, hn, State.takeEntries, hm, ho, hr]

/-- An entry that fails a re-check leaves, and the engine goes on from there. -/
theorem proceed_of_fails (hd : (s.queue.map (·.accession)).Nodup) (hm : s.mayTake = true)
    (hq : s.queue = before ++ e :: after) (ho : s.oldestReady = some e) {outcome : CommitOutcome}
    (hr : s.recheck e = some outcome) : s.proceed = (s.lateFailure e outcome).proceed := by
  have hn : s.queue.length = (s.lateFailure e outcome).queue.length + 1 := by
    rw [hq] at hd
    rw [State.lateFailure_queue, hq, filter_of_nodup hd]
    simp
    omega
  rw [State.proceed, hn, State.proceed]
  simp [State.takeEntries, hm, ho, hr]

/-- The state a late failure of an item that stands leaves. -/
theorem lateFailure_eq {outcome : CommitOutcome} {r : ItemRecord} (ha : e.accession = e.payload.accession)
    (hn : e.payload.namesItem = true) (hr : s.record? e.accession = some r) :
    s.lateFailure e outcome =
      ((((s.withQueue (s.queue.filter fun x => x.accession ≠ e.accession)).withIndex
        (s.index.setPending e.accession false)).withEngine
        { s.engine with lastCommit := some ⟨e.accession, e.payload.kind, outcome, r.revision⟩ }).withNotices
        (({ s.notices with commitFailed := true }).testLatch s.settings.noticeEnables)) := by
  rw [State.record?, ha] at hr
  simp only [State.lateFailure, State.noteCommit, hn, if_true, hr, ha]
  rfl

end

/-- Settles O24: the oldest READY entry is taken, or fails late and the engine goes on. -/
theorem takeReadyEntry : Obligations.TakeReadyEntry := by
  unfold Obligations.TakeReadyEntry
  refine ⟨fun s h => ?_, fun s e before after hm hq hb he hd => ?_⟩
  · rw [exec_takeReadyEntry, State.proceed_of_none]
    rcases h with h | h
    · simp [h]
    · exact fun _ => h
  have oldest : s.oldestReady = some e := oldestReady_of_split hq hb he
  refine ⟨fun hp hs hsucc => ?_, fun r ha hn hr outcome ho hfail u hu => ?_⟩
  · have pass : s.recheck e = none := recheck_eq_none hp hs fun a successor hc h =>
      standsAsSuccessor_iff.2 (hsucc a successor hc h)
    rw [exec_takeReadyEntry, proceed_of_passes hm oldest pass, hq, modifyEntry_of_nodup _ (hq ▸ hd)]
    rfl
  · have fail : s.recheck e = some outcome := by
      by_cases hp : s.settings.protects e.accession = true
      · rw [ho, if_pos hp]; exact recheck_protected hp
      · rw [if_neg hp] at ho
        rw [Bool.not_eq_true] at hp
        by_cases hs : s.index.freeSegments < e.payload.segmentsNeeded
        · rw [ho, if_pos hs]; exact recheck_noSpace hp hs
        · rw [ho, if_neg hs]
          obtain h | h | ⟨a, successor, hc, h0, h⟩ := hfail
          · simp [hp] at h
          · exact absurd h hs
          · refine recheck_eq_some hp (Nat.not_lt.1 hs) hc h0 ?_
            rw [← Bool.not_eq_true, standsAsSuccessor_iff]
            rintro ⟨x, hx, hw⟩
            exact hw (h x hx)
    have left : s.lateFailure e outcome = u := by
      rw [lateFailure_eq ha hn hr, hu, hq, filter_of_nodup (hq ▸ hd)]
    have on : s.proceed = u.proceed := left ▸ proceed_of_fails hd hm hq oldest fail
    refine ⟨by rw [exec_takeReadyEntry, exec_takeReadyEntry, on], fun none => ?_⟩
    rw [exec_takeReadyEntry, on, State.proceed_of_none fun _ => readyCount_eq_zero.2 ?_]
    intro x hx
    rw [hu] at hx
    exact (List.mem_append.1 hx).elim (hb x) (none x)

/-! ### CANCEL PENDING (R176) -/

theorem exec_cancelPending {s : State} (hs : s.ready) (form : Byte) (accession : BitVec 24) :
    exec (.cancelPending form accession) s =
      .next ((s.cancelPending accession.toNat).1.respond (.cancelPending form accession)
        (s.cancelPending accession.toNat).2) :=
  congrArg Host.Outcome.next (hostCommand_ready hs)

/-- Settles O25: by the entry's state. -/
theorem cancelPendingAnswers : Obligations.CancelPendingAnswers := by
  unfold Obligations.CancelPendingAnswers
  intro form accession s hs
  refine ⟨fun none => ?_, fun e he => ⟨fun busy => ?_, fun leaves => ?_⟩⟩ <;> rw [exec_cancelPending hs]
  · simp [State.cancelPending, none, Response.bare]
  · simp [State.cancelPending, he, busy, Response.bare]
  · simp only [State.cancelPending, he, if_neg leaves]
    rfl

/-! ### The index through a change (R4, R13, R159) -/

section
variable {ix : Index} {a b : Nat}

theorem Index.entry?_setPending (value : Bool) :
    (ix.setPending a value).entry? b =
      (ix.entry? b).map fun e => if e.accession = a then { e with pending := value } else e := by
  simp only [Index.entry?, Index.setPending, List.find?_map]
  congr 2
  funext e
  simp only [Function.comp_apply]
  split <;> rfl

theorem Index.useCount_setPending (value : Bool) : (ix.setPending a value).useCount b = ix.useCount b := by
  rw [Index.useCount, Index.entry?_setPending, Index.useCount, Option.map_map]
  congr 2
  funext e
  simp only [Function.comp_apply]
  split <;> rfl

theorem Index.isPending_setPending_ne (value : Bool) (h : b ≠ a) :
    (ix.setPending a value).isPending b = ix.isPending b := by
  rw [Index.isPending, Index.entry?_setPending, Index.isPending]
  cases he : ix.entry? b with
  | none => rfl
  | some e =>
    have hb : e.accession = b := by simpa using List.find?_some he
    simp [hb, h]

theorem Index.isPending_setPending_false : (ix.setPending a false).isPending a = false := by
  rw [Index.isPending, Index.entry?_setPending]
  cases he : ix.entry? a with
  | none => rfl
  | some e =>
    have ha : e.accession = a := by simpa using List.find?_some he
    simp [ha]

/-- A record that stands after a change keeps the entry it had, or begins one. -/
theorem Index.entry?_advanced (c : Change) {old new : List ItemRecord}
    (h : (findRecord new a).isSome = true) :
    (ix.advanced c old new).entry? a = some ((ix.entry? a).getD ⟨a, 0, false⟩) := by
  obtain ⟨r, hr⟩ := Option.isSome_iff_exists.1 h
  have same : ∀ x : ItemRecord,
      ((ix.entry? x.accession).getD ⟨x.accession, 0, false⟩).accession = x.accession := fun x => by
    cases he : ix.entry? x.accession with
    | none => rfl
    | some e => simpa using List.find?_some he
  have found : new.find? (fun x => ((ix.entry? x.accession).getD ⟨x.accession, 0, false⟩).accession == a) =
      some r := by
    simp only [same]; exact hr
  have mapped : (ix.advanced c old new).entry? a = (new.find? fun x =>
      ((ix.entry? x.accession).getD ⟨x.accession, 0, false⟩).accession == a).map fun x =>
      (ix.entry? x.accession).getD ⟨x.accession, 0, false⟩ := List.find?_map ..
  rw [mapped, found, Option.map_some, findRecord_accession hr]

theorem Index.useCount_advanced (c : Change) {old new : List ItemRecord}
    (h : (findRecord new a).isSome = true) : (ix.advanced c old new).useCount a = ix.useCount a := by
  rw [Index.useCount, Index.entry?_advanced c h, Index.useCount]
  cases ix.entry? a <;> rfl

theorem Index.isPending_advanced (c : Change) {old new : List ItemRecord}
    (h : (findRecord new a).isSome = true) : (ix.advanced c old new).isPending a = ix.isPending a := by
  rw [Index.isPending, Index.entry?_advanced c h, Index.isPending]
  cases ix.entry? a <;> rfl

end

/-! ### The last-commit record (R147) -/

/-- The revision of the last-commit record: 0 for a change that names no item, and otherwise that of the item's
record, where one stands. -/
theorem State.noteCommit_lastCommit (s : State) (c : Change) (outcome : CommitOutcome)
    (records : List ItemRecord) :
    ∃ revision, (s.noteCommit c outcome records).engine.lastCommit =
        some ⟨c.accession, c.kind, outcome, revision⟩ ∧ (c.namesItem = false → revision = 0#16) ∧
      (c.namesItem = true → ∀ r, findRecord records c.accession = some r → revision = r.revision) := by
  by_cases hn : c.namesItem = true
  · cases hr : findRecord records c.accession with
    | none => exact ⟨_, by simp only [State.noteCommit, hn, if_true, hr]; rfl, by simp [hn], by simp⟩
    | some r => exact ⟨_, by simp only [State.noteCommit, hn, if_true, hr]; rfl, by simp [hn], by simp⟩
  · exact ⟨_, by simp only [State.noteCommit, hn]; rfl, fun _ => rfl, fun h => absurd h hn⟩

/-! ### The entry of a change from the queue leaving with it (R144, R146, R159) -/

section
variable (s : State) (f : InFlight)

theorem State.releaseEntry_useCount (a : Nat) :
    (s.releaseEntry f).index.useCount a = s.index.useCount a := by
  rcases s.releaseEntry_cases f with ⟨-, h⟩ | ⟨-, h⟩ <;> rw [h]
  exact Index.useCount_setPending false

theorem State.releaseEntry_isPending (a : Nat) : (s.releaseEntry f).index.isPending a =
    (s.index.isPending a && !decide (f.source = .queue ∧ a = f.change.accession)) := by
  rcases s.releaseEntry_cases f with ⟨hf, h⟩ | ⟨hf, h⟩ <;> rw [h]
  · simp [hf]
  · show (s.index.setPending f.change.accession false).isPending a = _
    by_cases ha : a = f.change.accession
    · simp [hf, ha, Index.isPending_setPending_false]
    · simp [ha, Index.isPending_setPending_ne false ha]

/-- Nothing of the index moves but the pending field. -/
theorem State.releaseEntry_spaces : (s.releaseEntry f).index.vacantSlots = s.index.vacantSlots ∧
    (s.releaseEntry f).index.freeSegments = s.index.freeSegments ∧
    (s.releaseEntry f).index.carriers = s.index.carriers ∧
    (s.releaseEntry f).index.entries.map (·.accession) = s.index.entries.map (·.accession) := by
  rcases s.releaseEntry_cases f with ⟨-, h⟩ | ⟨-, h⟩ <;> rw [h]
  · exact ⟨rfl, rfl, rfl, rfl⟩
  · refine ⟨rfl, rfl, rfl, ?_⟩
    simp only [State.removeEntry, State.withIndex_index, Index.setPending, List.map_map]
    refine List.map_congr_left fun e _ => ?_
    simp only [Function.comp_apply]
    split <;> rfl

@[simp] theorem State.releaseEntry_pins : (s.releaseEntry f).pins = s.pins := by
  rcases s.releaseEntry_cases f with ⟨-, h⟩ | ⟨-, h⟩ <;> simp [h]

@[simp] theorem State.releaseEntry_link : (s.releaseEntry f).link = s.link := by
  rcases s.releaseEntry_cases f with ⟨-, h⟩ | ⟨-, h⟩ <;> simp [h]

@[simp] theorem State.releaseEntry_starting : (s.releaseEntry f).starting = s.starting := by
  rcases s.releaseEntry_cases f with ⟨-, h⟩ | ⟨-, h⟩ <;> simp [h]

@[simp] theorem State.releaseEntry_volumes : (s.releaseEntry f).volumes = s.volumes := by
  rcases s.releaseEntry_cases f with ⟨-, h⟩ | ⟨-, h⟩ <;> simp [h]

@[simp] theorem State.releaseEntry_notices : (s.releaseEntry f).notices = s.notices := by
  rcases s.releaseEntry_cases f with ⟨-, h⟩ | ⟨-, h⟩ <;> simp [h]

@[simp] theorem State.releaseEntry_milliseconds : (s.releaseEntry f).milliseconds = s.milliseconds := by
  rcases s.releaseEntry_cases f with ⟨-, h⟩ | ⟨-, h⟩ <;> simp [h]

theorem State.releaseEntry_queue_direct (h : f.source = .direct) : (s.releaseEntry f).queue = s.queue := by
  simp [State.releaseEntry, h]

theorem State.releaseEntry_queue_of_queue (h : f.source = .queue) :
    (s.releaseEntry f).queue = s.queue.filter fun e => e.accession ≠ f.change.accession := by
  simp [State.releaseEntry, h]

/-- No entry joins the queue, so none becomes READY. -/
theorem State.releaseEntry_readyCount (h : s.readyCount = 0) : (s.releaseEntry f).readyCount = 0 := by
  refine readyCount_eq_zero.2 fun x hx => readyCount_eq_zero.1 h x ?_
  rcases s.releaseEntry_cases f with ⟨-, he⟩ | ⟨-, he⟩ <;> rw [he] at hx
  · exact hx
  · exact List.mem_of_mem_filter hx

end

/-! ### STORE_FAULT (R146) -/

/-- What a STORE_FAULT leaves of the index is what the entry leaving does to the space returned. -/
theorem State.storeFaulted_index (s : State) (f : InFlight) :
    (s.storeFaulted f).index = ((s.returned f).releaseEntry f).index := by
  simp [State.storeFaulted]

/-- Settles O23: the version in force stays, and the engine goes on. -/
theorem storeFaultKeepsVersion : Obligations.StoreFaultKeepsVersion := by
  unfold Obligations.StoreFaultKeepsVersion
  intro s f hf hr
  obtain ⟨pins, reset, store⟩ := s.storeFaulted_control f
  obtain ⟨vacant, free, carriers, -⟩ := (s.returned f).releaseEntry_spaces f
  have index := s.storeFaulted_index f
  refine ⟨s.storeFaulted f, (s.storeFaulted f).proceed, ?_, rfl, fun h => State.proceed_of_none fun _ => ?_,
    store, s.storeFaulted_cursors f, fun a => ⟨?_, fun ha => ?_⟩, index ▸ vacant, index ▸ free,
    index ▸ carriers, s.storeFaulted_inFlight f, ?_, ?_, ?_, fun direct => ⟨?_, ?_⟩, fun queue => ⟨?_, ?_⟩,
    ?_, ?_, ?_, pins⟩
  · rw [exec_commitStoreFault hf, State.afterCompletion, if_neg (by rw [reset, hr]; decide)]
  · rw [← (s.returned f).releaseEntry_readyCount f h]; simp [State.storeFaulted, State.readyCount]
  · rw [index, State.releaseEntry_useCount]; rfl
  · rw [index, State.releaseEntry_isPending]
    simp only [ha, and_false, decide_false, Bool.not_false, Bool.and_true]; rfl
  · simp [State.storeFaulted, State.returned]
  · exact State.noteCommit_lastCommit _ f.change .storeFault s.store.records
  · simp [State.storeFaulted, State.returned, Notices.record]
  · simp [State.storeFaulted, State.releaseEntry_queue_direct _ f direct, State.returned]
  · simp [index, State.releaseEntry, direct, State.returned]
  · simp [State.storeFaulted, State.releaseEntry_queue_of_queue _ f queue, State.returned]
  · rw [index, State.releaseEntry_isPending]; simp [queue]
  · simp [State.storeFaulted, State.returned]
  · simp [State.storeFaulted, State.returned]
  · simp [State.storeFaulted, State.returned]

/-! ### DONE (R144) -/

/-- The idle engine over the new version, the queue not yet settled. -/
def State.installed (s : State) (f : InFlight) : State :=
  (s.install f.change).withEngine { s.engine with inFlight := none }

theorem State.completed_index (s : State) (f : InFlight) :
    (s.completed f).index = ((s.installed f).releaseEntry f).index := by
  simp [State.completed, State.installed]

theorem Change.slotsFreed_of_ne {c : Change} (records : List ItemRecord) (h : c.kind ≠ .clearHoldings)
    (hp : c.kind ≠ .purgeItem) : c.slotsFreed records = 0 := by
  cases c
  case purgeItem => exact absurd rfl hp
  case clearHoldings => exact absurd rfl h
  all_goals rfl

/-- A purge frees the one slot of its record. -/
theorem Change.slotsFreed_purge {c : Change} {records : List ItemRecord} (h : c.kind = .purgeItem)
    (order : records.Pairwise fun a b => a.accession < b.accession)
    (hr : (findRecord records c.accession).isSome = true) : c.slotsFreed records = 1 := by
  obtain ⟨a, rfl⟩ : ∃ a, c = .purgeItem a := by
    cases c <;> simp_all [Change.kind]
  obtain ⟨r, hr⟩ := Option.isSome_iff_exists.1 hr
  have nodup : (records.map (·.accession)).Nodup :=
    (List.pairwise_map.2 order).imp fun h => Nat.ne_of_lt h
  have one : records.countP (fun r => r.accession == a) = 1 := by
    rw [← List.count_eq_one_of_mem nodup (List.mem_map.2 ⟨r, findRecord_mem hr, findRecord_accession hr⟩),
      List.count, List.countP_map]
    rfl
  have split := List.length_eq_countP_add_countP (fun r : ItemRecord => r.accession == a) (l := records)
  simp only [Change.slotsFreed, Change.applyRecords, ← List.countP_eq_length_filter]
  have rest : records.countP (fun r => decide (r.accession ≠ a)) =
      records.countP (fun r => decide ¬(r.accession == a) = true) := by simp
  omega

theorem Change.segmentsFreed_of_none {c : Change} {records : List ItemRecord} (h : c.kind ≠ .clearHoldings)
    (hr : findRecord records c.accession = none) : c.segmentsFreed records = 0 := by
  cases c <;> simp_all [Change.segmentsFreed, Change.kind, Change.accession]

/-- Where the revision of a completed change is read. -/
theorem revisionRecords_of_ne {c : Change} (h : c.kind ≠ .purgeItem) (old new : List ItemRecord) :
    revisionRecords c old new = new := by
  cases c
  case purgeItem => exact absurd rfl h
  all_goals rfl

theorem revisionRecords_purge {c : Change} (h : c.kind = .purgeItem) (old new : List ItemRecord) :
    revisionRecords c old new = old ∧ c.namesItem = true := by
  cases c <;> simp_all [Change.kind, revisionRecords, Change.namesItem]

/-- A change that writes no list frees none. -/
theorem Change.segmentsFreed_of_kind {c : Change} (records : List ItemRecord)
    (h : c.kind = .setItemFields ∨ c.kind = .certifyItem ∨ c.kind = .storeSettings) :
    c.segmentsFreed records = 0 := by
  cases c <;> simp_all [Change.kind, Change.segmentsFreed]

/-- A change that gives up the whole list frees every place of it. -/
theorem Change.segmentsFreed_whole {c : Change} {records : List ItemRecord} {r : ItemRecord}
    (hr : findRecord records c.accession = some r)
    (h : c.kind = .writeItem ∨ c.kind = .retireItem ∨ c.kind = .purgeItem) :
    c.segmentsFreed records = r.segments.length := by
  cases c <;> simp_all [Change.kind, Change.segmentsFreed, Change.accession]

/-- Settles O20: the new version in force over everything else as it was. -/
theorem commitCompletes : Obligations.CommitCompletes := by
  unfold Obligations.CommitCompletes
  intro s f hf hr hk
  obtain ⟨pins, reset⟩ := s.completed_control f
  obtain ⟨vacant, free, carriers, accessions⟩ := (s.installed f).releaseEntry_spaces f
  obtain ⟨-, -, entries, keys, slots, places, -⟩ := s.install_core f.change
  have index := s.completed_index f
  have store := s.completed_store f
  have install := State.install_of_ne (s := s) hk
  have slots' : (s.completed f).index.vacantSlots = s.index.vacantSlots + f.change.slotsFreed s.store.records :=
    index ▸ vacant.trans slots
  have places' : (s.completed f).index.freeSegments =
      s.index.freeSegments + f.change.segmentsFreed s.store.records := index ▸ free.trans places
  have stands : ∀ a, ((s.completed f).record? a).isSome = true →
      (findRecord (f.change.applyRecords s.store.records) a).isSome = true := fun a ha => by
    rw [State.record?, store] at ha; exact ha
  refine ⟨s.completed f, (s.completed f).proceed, ?_, rfl, fun h => State.proceed_of_none fun _ => ?_,
    store, fun snapshot hc => ?_, fun hc => ?_, s.completed_inFlight f, ?_, ?_, ?_, fun direct => ?_,
    fun queue => ?_, ?_, ?_, fun a ha => ⟨?_, ?_⟩, fun hp => ?_, fun hp kept hs => ?_, fun h => ?_,
    fun r hr => ⟨fun h => ?_, fun a first k m run hc hle => ?_⟩, fun n => ?_, pins, ?_, ?_,
    reset.trans hr, ?_, ?_, ?_, ?_⟩
  · rw [exec_commitComplete hf, State.afterCompletion, if_neg (by rw [reset, hr]; decide)]
  · rw [← ((s.installed f).releaseEntry_readyCount f (by rw [← h]; simp [State.readyCount, State.installed,
      install]))]
    simp [State.completed, State.readyCount, State.installed]
  · rw [store, hc]; exact ⟨rfl, rfl⟩
  · rw [store]
    cases hc' : f.change
    case storeSettings snapshot => exact absurd hc' (hc snapshot)
    all_goals rfl
  · simp [State.completed]
  · obtain ⟨revision, hrev, unnamed, named⟩ := State.noteCommit_lastCommit
      (((s.install f.change).withEngine { s.engine with inFlight := none }).releaseEntry f) f.change .done
      (revisionRecords f.change s.store.records (f.change.applyRecords s.store.records))
    refine ⟨revision, by simpa [State.completed] using hrev, unnamed, fun hn hp r hr => ?_, fun hp r hr => ?_⟩
    · rw [revisionRecords_of_ne hp] at named
      rw [store] at hr
      exact named hn r hr
    · obtain ⟨old, hn⟩ := revisionRecords_purge hp s.store.records (f.change.applyRecords s.store.records)
      rw [old] at named
      exact named hn r hr
  · simp [State.completed, install, Notices.record]
  · simp [State.completed, State.releaseEntry_queue_direct _ f direct, install]
  · simp [State.completed, State.releaseEntry_queue_of_queue _ f queue, install]
  · rw [index, store]; exact accessions.trans entries
  · rw [index, store]; exact carriers.trans keys
  · rw [index, State.releaseEntry_useCount, State.installed, State.withEngine_index, install]
    exact Index.useCount_advanced _ (stands a ha)
  · rw [index, State.releaseEntry_isPending, State.installed, State.withEngine_index, install,
      State.withCursors_index, State.withIndex_index, Index.isPending_advanced _ (stands a ha)]
  · rw [slots', Change.slotsFreed_of_ne _ hk hp]; rfl
  · rw [slots', Change.slotsFreed_purge hp kept.1 hs]
  · rw [places', Nat.add_eq_left]
    rcases h with h | h | h | h
    · exact Change.segmentsFreed_of_kind _ (.inl h)
    · exact Change.segmentsFreed_of_kind _ (.inr (.inl h))
    · exact Change.segmentsFreed_of_kind _ (.inr (.inr h))
    · exact Change.segmentsFreed_of_none hk h
  · rw [places', Change.segmentsFreed_whole hr h]
  · rw [places', hc]
    have hr : findRecord s.store.records a = some r := by rw [hc] at hr; exact hr
    have len : ((r.segments.drop first).take k).length = k := by simp; omega
    simp only [Change.segmentsFreed, hr, Option.map_some, Option.getD_some, len]
  · rw [State.completed_cursors, install, store]; simp; rfl
  · simp [State.completed, install]
  · simp [State.completed, install]
  · simp [State.completed, install]
  · simp [State.completed, install]
  · simp [State.completed, install]
  · simp [State.completed, install]

/-! ### CLEAR HOLDINGS (R145) -/

theorem Cursor.namesRemoved_eq_false {c : Cursor} {records : List ItemRecord}
    (h : c.path.all (fun x => (findRecord records x.accession).isSome) = true) :
    c.namesRemoved records = false := by
  simp only [Cursor.namesRemoved, List.any_eq_false, List.all_eq_true] at h ⊢
  intro x hx
  simpa [Option.isSome_iff_ne_none] using h x hx

/-- The records that stand, with the ones removed, are the records before. -/
theorem length_certified (records : List ItemRecord) :
    records.length - (records.filter fun r => decide (r.state = .certified)).length =
      (records.filter fun r => decide (r.state ≠ .certified)).length := by
  have := List.length_eq_length_filter_add (l := records) fun r => decide (r.state = .certified)
  simp only [ne_eq, decide_not]
  omega

/-- An entry's accession and use count outlast the loss of its pending field. -/
theorem Index.counts_setPending {ix : Index} {a : Nat} {value : Bool} {count : Nat → Nat}
    (h : ∀ e ∈ ix.entries, e.useCount = count e.accession) :
    ∀ e ∈ (ix.setPending a value).entries, e.useCount = count e.accession := by
  intro e he
  obtain ⟨x, hx, rfl⟩ := List.mem_map.1 he
  split
  · exact h x hx
  · exact h x hx

/-- A completed CLEAR HOLDINGS raises for the cursors it faulted. -/
theorem cursorFaulted_completed_clear {s : State} {f : InFlight} (hc : f.change = .clearHoldings) (n : Fin 16) :
    (s.completed f).notices.cursorFaulted.getLsbD n.val = (s.notices.cursorFaulted.getLsbD n.val ||
      (s.cursors.get n).namesRemoved (Change.clearHoldings.applyRecords s.store.records)) := by
  simp only [State.completed, hc, State.install, State.dropRemoved_eq, State.raise_notices,
    Notices.testLatch_cursorFaulted, State.noteCommit_notices, State.releaseEntry_notices,
    State.withEngine_notices, State.settleCounts_notices, State.withNotices_notices, Notices.record]
  refine (noticesFor_cursorFaulted _ _ _ _ n).trans ?_
  simp

/-- Settles O22: the CERTIFIED records stand, and the paths through the others fault. -/
theorem clearHoldingsCompletes : Obligations.ClearHoldingsCompletes := by
  unfold Obligations.ClearHoldingsCompletes
  intro s f hf hc hr hq
  obtain ⟨pins, reset⟩ := s.completed_control f
  obtain ⟨vacant, free, carriers, accessions⟩ := (s.installed f).releaseEntry_spaces f
  obtain ⟨-, -, entries, keys, slots, places, -⟩ := s.install_core f.change
  have index := s.completed_index f
  have store := s.completed_store f
  rw [hc] at store entries keys slots places
  have cursor : ∀ n, (s.completed f).cursors.get n =
      if (s.cursors.get n).namesRemoved (s.completed f).store.records then
        (s.cursors.get n).faultedWith .missingTarget else s.cursors.get n := fun n => by
    rw [State.completed_cursors, hc, State.install_cursors_clear, Table.get_map, store]; rfl
  refine ⟨s.completed f, ?_, by rw [store]; rfl, by rw [store]; rfl, ?_, fun n hn => ?_, fun n hn => ?_, ?_,
    ?_, ?_, ?_, ?_, ?_⟩
  · have empty : ((s.installed f).releaseEntry f).queue = [] := by
      have queue : (s.installed f).queue = [] := by
        simp [State.installed, hc, State.install, State.dropRemoved_eq, hq]
      rcases (s.installed f).releaseEntry_cases f with ⟨-, h⟩ | ⟨-, h⟩ <;> simp [h, queue]
    have none : (s.completed f).readyCount = 0 := readyCount_eq_zero.2 fun x hx => by
      simp [State.completed, ← State.installed.eq_1, empty] at hx
    rw [exec_commitComplete hf, State.afterCompletion, if_neg (by rw [reset, hr]; decide),
      State.proceed_of_none fun _ => none]
  · simp [State.completed, hc, State.noteCommit, Change.namesItem, Change.accession, Change.kind]
  · have removed : (s.cursors.get n).namesRemoved (s.completed f).store.records = true := hn
    rw [cursor, if_pos removed]
    refine ⟨rfl, rfl, rfl, rfl, rfl, rfl, ?_⟩
    rw [cursorFaulted_completed_clear hc, Bool.or_eq_true]
    exact .inr (by rw [store] at removed; exact removed)
  · rw [cursor, if_neg (by simp [Cursor.namesRemoved_eq_false hn])]
  · simp [State.completed, Notices.record]
  · rw [index, store, accessions, State.installed, State.withEngine_index, hc, entries]; rfl
  · rw [index, store, carriers, State.installed, State.withEngine_index, hc, keys]; rfl
  · rw [index, vacant, State.installed, State.withEngine_index, hc, slots, ← length_certified]; rfl
  · rw [index, free, State.installed, State.withEngine_index, hc, places]; rfl
  · rw [index, State.completed_cursors]
    have settled : ∀ e ∈ (s.installed f).index.entries,
        e.useCount = framesNaming (s.install f.change).cursors e.accession := by
      simp only [State.installed, hc, State.install, State.dropRemoved]
      exact State.settleCounts_counts _
    rcases (s.installed f).releaseEntry_cases f with ⟨-, h⟩ | ⟨-, h⟩ <;> rw [h]
    · exact settled
    · exact Index.counts_setPending settled

end Sys2Proof.Machine
end

section
/-! SUPPORT. The volume commands' refusals, REPORT FAULT and the expiry of tSTABLE, a registered setting written,
and the notice commands (chapters 6 and 10). -/

namespace Sys2Proof.Machine

/-! ### The order of checks of a volume command (R114) -/

section
variable {s : State} {i : Instr} {volume result : Byte} {v : Fin 64} {inRange : Bool} {st : Settings} {e : Volume}
  {move : State → Fin 64 → Volume → Option VolumeMove}

theorem hostCommand_volume_malformed (hs : s.ready) (h : 63 < volume.toNat ∨ inRange = false) :
    hostCommand i (fun s => s.volumeCommand volume inRange (move s)) s =
      s.respond i ⟨.malformed, [0x14, 0x41]⟩ := by
  have refused : s.volumeCommand volume inRange (move s) = (s, ⟨.malformed, [0x14, 0x41]⟩) := by
    by_cases hv : volume.toNat < 64
    · have out : inRange = false := h.resolve_left (by omega)
      simp [State.volumeCommand, volumeOf, hv, out, malformedArguments_eq]
    · simp [State.volumeCommand, volumeOf, hv, malformedArguments_eq]
  rw [hostCommand_ready hs, refused]

theorem hostCommand_volume_unknown (hs : s.ready) (hv : volume.toNat = v.val) (hr : inRange = true)
    (hu : (s.volumes.get v).health = .unregistered) :
    hostCommand i (fun s => s.volumeCommand volume inRange (move s)) s =
      s.respond i ⟨.volumeUnknown, []⟩ := by
  rw [hostCommand_ready hs]
  simp [State.volumeCommand, volumeOf_eq hv, hr, hu, Response.bare]

/-- The five volume commands share one order of checks; PROBE RESULT alone has an argument out of range. -/
theorem exec_volumeCommand {form : Byte}
    (h : i = .reportFault form volume ∨ i = .probeResult form volume result ∨ i = .probeVolume form volume ∨
      i = .failVolume form volume ∨ i = .restoreVolume form volume) :
    ∃ (inRange : Bool) (move : State → Fin 64 → Volume → Option VolumeMove), (inRange = false ↔
        i = .probeResult form volume result ∧ result ≠ 1#8 ∧ result ≠ 2#8) ∧
      ∀ s, exec i s = .next (hostCommand i (fun s => s.volumeCommand volume inRange (move s)) s) := by
  rcases h with rfl | rfl | rfl | rfl | rfl
  · exact ⟨true, fun s => reportFaultMove s.settings, by simp, fun s => rfl⟩
  · refine ⟨decide (result.toNat = 1 ∨ result.toNat = 2), _, ?_, fun s => rfl⟩
    simp [← BitVec.toNat_inj]
  · exact ⟨true, fun s _ e => probeVolumeMove s.settings e, by simp, fun s => rfl⟩
  · exact ⟨true, fun s _ e => some (.quiet (e.fail s.settings)), by simp, fun s => rfl⟩
  · exact ⟨true, fun s _ _ => some (.quiet Volume.clean), by simp, fun s => rfl⟩

/-! ### REPORT FAULT (R115, R117, R119, R121) -/

theorem reportFaultMove_reached (h : e.health = .online) (hc : st.faultThreshold ≤ e.faultCount + 1) :
    reportFaultMove st v e =
      some ⟨⟨.failed, e.faultCount + 1, .running .tPwait st.tPwait⟩, some (.volumeFailed v)⟩ := by
  simp [reportFaultMove, h, hc, Volume.fail, Volume.start, Settings.interval]

theorem reportFaultMove_failed (h : e.health = .failed) : reportFaultMove st v e = some (.quiet e) := by
  simp [reportFaultMove, h]

theorem reportFaultMove_trial (h : e.health = .probing ∨ e.health = .settling) :
    reportFaultMove st v e =
      some ⟨⟨.failed, e.faultCount, .running .tPwait st.tPwait⟩, some (.volumeFailed v)⟩ := by
  rcases h with h | h <;> simp [reportFaultMove, h, Volume.fail, Volume.start, Settings.interval]

/-- REPORT FAULT on a registered volume makes the move its health calls for. -/
theorem exec_reportFault {form : Byte} {m : VolumeMove} (hs : s.ready) (hv : volume.toNat = v.val)
    (hu : (s.volumes.get v).health ≠ .unregistered)
    (hm : reportFaultMove s.settings v (s.volumes.get v) = some m) : exec (.reportFault form volume) s =
      .next ((s.moveVolume v m).respond (.reportFault form volume) ⟨.ok, m.entry.bytes⟩) :=
  congrArg Host.Outcome.next (hostCommand_volume_moved (move := fun s => reportFaultMove s.settings) hs hv rfl
    hu hm)

end

/-- Settles O39: by the health of the volume. -/
theorem reportFaultCounts : Obligations.ReportFaultCounts := by
  unfold Obligations.ReportFaultCounts
  rintro form volume v s e hs hv rfl
  refine ⟨fun h => ?_, fun h below => ?_, fun h reached => ?_, fun h => ?_, fun h => ?_⟩
  · exact congrArg Host.Outcome.next (hostCommand_volume_unknown hs hv rfl h)
  · rw [exec_reportFault hs hv (by simp [h]) (reportFaultMove_below h below)]
    rfl
  · rw [exec_reportFault hs hv (by simp [h]) (reportFaultMove_reached h reached)]
    rfl
  · rw [exec_reportFault hs hv (by simp [h]) (reportFaultMove_failed h), State.moveVolume_quiet,
      State.setVolume, Table.set_get_self]
    rfl
  · have registered : (s.volumes.get v).health ≠ .unregistered := by rcases h with h | h <;> simp [h]
    rw [exec_reportFault hs hv registered (reportFaultMove_trial h)]
    rfl

/-! ### The expiry of tSTABLE (R121) -/

section
variable {e : Volume} {st : Settings} {policy : VolumePolicy} {v : Fin 64}

theorem Volume.expire_tStable_return (h : e.health = .settling) (hp : policy.autoReturn = true) :
    e.expire .tStable st policy v = ⟨⟨.online, 0, .idle⟩, some (.volumeReturned v)⟩ := by
  simp [Volume.expire, h, hp, Volume.clean]

theorem Volume.expire_tStable_wait (h : e.health = .settling) (hp : policy.autoReturn = false) :
    e.expire .tStable st policy v = .quiet ⟨.settling, e.faultCount, .idle⟩ := by
  simp [Volume.expire, h, hp]

end

/-- Settles O43: by the auto return setting. -/
theorem settlingEnds : Obligations.SettlingEnds := by
  unfold Obligations.SettlingEnds
  rintro v s e rfl h
  refine ⟨fun q hq => ?_, fun due => ⟨fun auto => ?_, fun auto => ?_⟩⟩
  · simp [Placement.eligible, hq, h]
  · exact congrArg Host.Outcome.next ((State.expire_due due).trans
      (congrArg (s.moveVolume v) (Volume.expire_tStable_return h auto)))
  · exact congrArg Host.Outcome.next ((State.expire_due due).trans
      (congrArg (s.moveVolume v) (Volume.expire_tStable_wait h auto)))

/-! ### A setting written (R205) -/

section
variable {s : State} {form number volume : Byte} {value : BitVec 32} {name : SettingName} {v : Fin 64}

/-- SET SETTING with an admitted value writes it and answers what then stands. -/
theorem exec_setSetting (hs : s.ready) (hn : settingNamed number volume = some (name, v))
    (ha : name.admits value.toNat = true) : exec (.setSetting form number volume value) s =
      .next ((s.writeSetting name v value.toNat).respond (.setSetting form number volume value)
        ⟨.ok, [number] ++ bytesOf 1 v.val ++
          bytesOf 4 ((s.settings.write v value.toNat name).value v name)⟩) := by
  refine congrArg Host.Outcome.next ((hostCommand_ready hs).trans ?_)
  simp only [State.setSetting, hn, ha, if_true]

/-- The value held, written again. -/
theorem State.writeSetting_same {x : Nat} (h : (s.settings.write v x name).value v name = s.settings.value v name) :
    s.writeSetting name v x = s := by
  simp [State.writeSetting, h]

theorem State.writeSetting_changed {x : Nat}
    (h : (s.settings.write v x name).value v name ≠ s.settings.value v name) :
    s.writeSetting name v x = (s.withSettings (s.settings.write v x name)).settingActs name v := by
  simp [State.writeSetting, h]

end

theorem settingNamed_registered {volume : Byte} {v : Fin 64} (hv : volume.toNat = v.val) :
    settingNamed 0x18#8 volume = some (.registered, v) := by
  simp [settingNamed, SettingName.ofNumber, SettingName.perVolume, volumeOf_eq hv]

/-- A write of the registered setting moves its volume when the value changes (R112). -/
theorem State.writeSetting_registered (s : State) (v : Fin 64) (yes : Bool) :
    s.writeSetting .registered v (if yes then 1#32 else 0#32).toNat =
      if (s.settings.policies.get v).registered = yes then s
      else (s.withSettings (s.settings.write v (if yes then 1#32 else 0#32).toNat .registered)).setVolume v
        ⟨if yes then .online else .unregistered, 0, .idle⟩ := by
  have written : (s.settings.write v (if yes then 1#32 else 0#32).toNat .registered).policies.get v =
      { s.settings.policies.get v with registered := yes } := by
    cases yes <;> simp [Settings.write, Settings.setPolicy]
  by_cases h : (s.settings.policies.get v).registered = yes
  · rw [if_pos h, State.writeSetting_same]
    simp [Settings.value, written, h]
  · rw [if_neg h, State.writeSetting_changed]
    · simp only [State.settingActs, State.policyOf, State.withSettings_settings, written,
        Volume.registeredAs, Volume.clean]
      cases yes <;> rfl
    · cases yes <;> simp_all [Settings.value, yesNoValue]

/-- Settles O47: the order of checks of the volume commands, and the registered setting written. -/
theorem registrationGovernsVolumes : Obligations.RegistrationGovernsVolumes := by
  unfold Obligations.RegistrationGovernsVolumes
  refine ⟨fun form volume result i s hs hi => ?_, fun form volume v yes s hs hv => ?_⟩
  · obtain ⟨inRange, move, range, he⟩ := exec_volumeCommand (result := result) hi
    refine ⟨fun h => ?_, fun v hv hr hu => ?_⟩
    · rw [he, hostCommand_volume_malformed hs (h.imp_right range.2)]
    · have within : inRange = true := by
        rw [← Bool.not_eq_false, range]
        rintro ⟨hi, h1, h2⟩
        exact (hr hi).elim h1 h2
      rw [he, hostCommand_volume_unknown hs hv within hu]
  · have admitted : SettingName.registered.admits (if yes then 1#32 else 0#32).toNat = true := by
      cases yes <;> rfl
    refine ⟨_, exec_setSetting hs (settingNamed_registered hv) admitted, ?_⟩
    rw [State.writeSetting_registered]
    by_cases h : (s.settings.policies.get v).registered = yes
    · simp [h]
    · rw [if_neg h]
      refine ⟨rfl, fun w hw => ?_, fun h' => absurd h' h, fun _ => ?_⟩
      · exact Table.get_set_ne _ _ hw.symm
      · exact Table.get_set_self ..

/-! ### The notice commands (R196 to R200) -/

theorem or_twoPow_ne_zero {w k : Nat} (x : BitVec w) (h : k < w) : (x ||| BitVec.twoPow w k != 0#w) = true := by
  refine bne_iff_ne.2 fun zero => ?_
  have bit := congrArg (fun y => y.getLsbD k) zero
  simp [h] at bit

/-- A raise makes its own kind pending and no other (R195). -/
theorem Notices.isPending_record (n : Notices) (x : Notice) (k : NoticeKind) :
    (n.record x).isPending k = (n.isPending k || decide (k = x.kind)) := by
  cases x <;> cases k <;> simp [Notices.record, Notices.isPending, Notice.kind, or_twoPow_ne_zero]

/-- With one kind pending, an enabled kind is pending when that kind is enabled. -/
theorem Notices.enabledPending_of_one {n : Notices} {j : NoticeKind} (enables : BitVec 10)
    (h : ∀ k, n.isPending k = decide (k = j)) : n.enabledPending enables = enables.getLsbD j.bit := by
  cases j <;> simp [Notices.enabledPending, NoticeKind.all, h]

theorem getLsbD_enablesAfter (enables : BitVec 10) (setMask clearMask : BitVec 16) {k : Nat} (hk : k < 10) :
    (enablesAfter enables setMask clearMask).getLsbD k =
      ((enables.getLsbD k || setMask.getLsbD k) && !clearMask.getLsbD k) := by
  simp [enablesAfter, hk]

theorem Notices.testLatch_if (n : Notices) (enables : BitVec 10) : n.testLatch enables =
    if n.armed = true ∧ n.latched = false ∧ n.enabledPending enables = true then
      { n with armed := false, latched := true } else n := by
  cases ha : n.armed <;> cases hl : n.latched <;> simp [Notices.testLatch, ha, hl]

theorem length_noticeReport (s : State) : s.noticeReport.length = 42 := by
  cases h : s.engine.lastCommit <;> simp [State.noticeReport, lastCommitBytes, h]

/-- The notices ARM NOTICES leaves (R197, R198). -/
def State.armedNotices (s : State) : Notices :=
  if s.notices.latched = false ∧ s.notices.enabledPending s.settings.noticeEnables = true then
    { s.notices with armed := false, latched := true } else { s.notices with armed := true }

/-- ARM NOTICES answers the ARMED flag and the line it leaves. -/
theorem exec_armNotices {form : Byte} {s : State} {n : Notices} {line : Bool} (hs : s.ready)
    (h : s.armedNotices = n) (hl : n.latched = line) :
    exec (.armNotices form) s = .next ((s.withNotices n).respond (.armNotices form)
      ⟨.ok, [yesNo n.armed, yesNo line]⟩) := by
  subst hl
  have tested : ({ s.notices with armed := true } : Notices).testLatch s.settings.noticeEnables = n := by
    have enabled : ({ s.notices with armed := true } : Notices).enabledPending s.settings.noticeEnables =
        s.notices.enabledPending s.settings.noticeEnables :=
      Notices.enabledPending_congr _ fun k => by cases k <;> rfl
    rw [← h, Notices.testLatch_if, State.armedNotices, enabled]
    simp only [true_and]
  refine congrArg Host.Outcome.next ((hostCommand_ready hs).trans ?_)
  rw [← tested]
  rfl

/-- After the notices are taken, a raise is the one kind pending (R200). -/
theorem isPending_record_taken (armed : Bool) (x : Notice) (k : NoticeKind) :
    (({ Notices.afterReset with armed := armed } : Notices).record x).isPending k = decide (k = x.kind) := by
  rw [Notices.isPending_record]
  cases k <;> simp [Notices.isPending, Notices.afterReset]

/-- The raise latches the line when ARMED is set and its kind enabled (R197). -/
theorem latched_record_taken (armed : Bool) (x : Notice) (enables : BitVec 10) :
    ((({ Notices.afterReset with armed := armed } : Notices).record x).testLatch enables).latched = true ↔
      armed = true ∧ enables.getLsbD x.kind.bit = true := by
  rw [Notices.testLatch_if, Notices.enabledPending_of_one _ (isPending_record_taken armed x),
    Notices.record_armed, Notices.record_latched]
  split <;> simp_all [Notices.afterReset]

/-- Settles O45: by the state each command meets. -/
theorem noticeCommandsAct : Obligations.NoticeCommandsAct := by
  unfold Obligations.NoticeCommandsAct
  refine ⟨⟨fun form s hs => ?_, fun form setMask clearMask s hs => ?_⟩, fun form s hs => ?_⟩
  · refine ⟨fun low some => exec_armNotices (line := true) hs ?_ rfl,
      fun low none => exec_armNotices (line := false) hs ?_ low,
      fun high => exec_armNotices (line := true) hs ?_ high⟩
    · rw [State.armedNotices, if_pos ⟨low, some⟩]
    · rw [State.armedNotices, if_neg (by simp [none])]
    · rw [State.armedNotices, if_neg (by simp [high])]
  · refine ⟨enablesAfter s.settings.noticeEnables setMask clearMask,
      fun k hk => getLsbD_enablesAfter _ _ _ hk, congrArg Host.Outcome.next ((hostCommand_ready hs).trans ?_)⟩
    rw [← Notices.testLatch_if]
    rfl
  · refine ⟨s.noticeReport, congrArg Host.Outcome.next (hostCommand_ready hs), length_noticeReport s, ?_,
      s.notices.getLsbD_kinds, fun t x ht => ?_⟩
    · unfold State.noticeReport
      cases s.engine.lastCommit <;> rfl
    · cases (congrArg Host.Outcome.next (hostCommand_ready hs)).symm.trans ht
      refine ⟨?_, fun k hk => ?_, latched_record_taken s.notices.armed x s.settings.noticeEnables⟩
      · exact (Notices.testLatch_isPending ..).trans ((isPending_record_taken ..).trans (by simp))
      · exact (Notices.testLatch_isPending ..).trans ((isPending_record_taken ..).trans (by simp [hk]))

end Sys2Proof.Machine
end

section
/-! SUPPORT. The comparison of R167 over the whole queue, and the steps that make it: THAW, a tHOLD setting
written, and the tick of the time base (sections 7.4, 8.3 and 10.5). -/

namespace Sys2Proof.Machine

/-! ### The comparison made for every entry (R167) -/

section
variable {s : State} {a : Nat}

theorem dueStages_of_undue {e : Entry} (thawed : s.engine.frozen = false) (h : e.undue s)
    (hw : e.state = .waiting) : e.dueStages s.settings = [] := by
  refine List.eq_nil_iff_forall_not_mem.2 fun k hk => ?_
  obtain ⟨⟨-, h3⟩, hs, ht⟩ := mem_dueStages.1 hk
  have := h hw thawed k hs h3
  omega

/-- With no stage of the entry due, nothing is reached. -/
theorem reachStages_of_undue
    (h : ∀ e ∈ s.queue, e.accession = a → e.state = .waiting → e.dueStages s.settings = []) :
    s.reachStages a = s := by
  rcases s.reachStages_entry a with ⟨h, -⟩ | ⟨e, t, -, he, hw, hd, -⟩
  · exact h
  · exact absurd (h e (List.mem_of_find?_eq_some he) (by simpa using List.find?_some he) hw) hd

/-- With the engine FROZEN no stage is reached (R174). -/
theorem reachStages_of_frozen (h : s.engine.frozen = true) : s.reachStages a = s := by
  simp [State.reachStages, h]

theorem foldl_of_fixed {α β : Type} {f : β → α → β} {b : β} (l : List α) (h : ∀ a ∈ l, f b a = b) :
    l.foldl f b = b := by
  induction l with
  | nil => rfl
  | cons a rest ih =>
    rw [List.foldl_cons, h a List.mem_cons_self]
    exact ih fun x hx => h x (List.mem_cons_of_mem a hx)

theorem reachAllStages_of_undue
    (h : ∀ e ∈ s.queue, e.state = .waiting → e.dueStages s.settings = []) : s.reachAllStages = s :=
  foldl_of_fixed _ fun _ _ => reachStages_of_undue fun e he _ => h e he

/-- Once an entry that alone may have a stage due has reached its stages, nothing is due. -/
theorem dueStages_reachStages (ha : (s.queue.map (·.accession)).Nodup) (thawed : s.engine.frozen = false)
    (others : ∀ e ∈ s.queue, e.accession ≠ a → e.state = .waiting → e.dueStages s.settings = [])
    (free : ∀ e ∈ s.queue, e.state = .ready → framesNaming s.cursors e.accession = 0) :
    ∀ e ∈ (s.reachStages a).queue, e.state = .waiting → e.dueStages (s.reachStages a).settings = [] := by
  intro x hx
  obtain ⟨own, e, he, hea, keep⟩ := State.reachStages_undue a ha free x hx
  refine dueStages_of_undue (by simpa using thawed) ?_
  by_cases hxa : x.accession = a
  · exact own hxa
  · exact keep (Entry.undue_of_dueStages (others e he (hea ▸ hxa)))

/-- The comparison made for every entry is the one made for the entry that alone may have a stage due. -/
theorem reachAllStages_eq {e : Entry} (he : e ∈ s.queue) (ha : (s.queue.map (·.accession)).Nodup)
    (others : ∀ x ∈ s.queue, x.accession ≠ e.accession → x.state = .waiting → x.dueStages s.settings = [])
    (free : ∀ x ∈ s.queue, x.state = .ready → framesNaming s.cursors x.accession = 0) :
    s.reachAllStages = s.reachStages e.accession := by
  by_cases frozen : s.engine.frozen = true
  · rw [reachStages_of_frozen frozen]
    exact foldl_of_fixed _ fun _ _ => reachStages_of_frozen frozen
  obtain ⟨before, after, hq⟩ := List.append_of_mem he
  have others' : ∀ b ∈ before.map (·.accession), s.reachStages b = s := fun b hb =>
    reachStages_of_undue fun x hx hxb => others x hx (by
      obtain ⟨y, hy, rfl⟩ := List.mem_map.1 hb
      exact hxb ▸ (accession_ne_of_nodup (hq ▸ ha)).1 y hy)
  have later : ∀ b ∈ after.map (·.accession), (s.reachStages e.accession).reachStages b =
      s.reachStages e.accession := fun b _ =>
    reachStages_of_undue fun x hx _ =>
      dueStages_reachStages ha (by simpa using frozen) others free x hx
  rw [State.reachAllStages, hq, List.map_append, List.foldl_append, foldl_of_fixed _ others', List.map_cons,
    List.foldl_cons, foldl_of_fixed _ later]

theorem exec_stageReached (accession : BitVec 24) (s : State) :
    exec (.stageReached accession) s = .next (s.reachStages accession.toNat).proceed := rfl

end

/-! ### FREEZE and THAW (R152, R153, R174) -/

theorem exec_freeze {form : Byte} {s : State} (hs : s.ready) :
    exec (.freeze form) s = .next (s.freeze.1.respond (.freeze form) s.freeze.2) :=
  congrArg Host.Outcome.next (linkCommand_taken hs.1 (by simp [freezeReadiness, hs.2]))

theorem exec_thaw_thawed {form : Byte} {s : State} (hs : s.ready) (h : s.engine.frozen = false) :
    exec (.thaw form) s = .next (s.respond (.thaw form) ⟨.ok, []⟩) := by
  refine congrArg Host.Outcome.next ((hostCommand_ready hs).trans ?_)
  simp [State.thaw, h, Response.bare]

theorem exec_thaw_frozen {form : Byte} {s : State} (hs : s.ready) (h : s.engine.frozen = true) :
    exec (.thaw form) s = .next
      ((s.withEngine { s.engine with frozen := false }).reachAllStages.proceed.respond (.thaw form) ⟨.ok, []⟩) := by
  refine congrArg Host.Outcome.next ((hostCommand_ready hs).trans ?_)
  simp [State.thaw, h, Response.bare]

/-- Settles O26: by the state each command meets, and by the stages due at a THAW. -/
theorem freezeAndThaw : Obligations.FreezeAndThaw := by
  unfold Obligations.FreezeAndThaw
  intro form s hs
  refine ⟨fun idle => ?_, fun busy => ?_, fun thawed => exec_thaw_thawed hs thawed, fun frozen u hu => ?_, ?_⟩
  · rw [exec_freeze hs]
    simp [State.freeze, State.committing, idle, FreezeCause.byte]
  · rw [exec_freeze hs]
    simp [State.freeze, State.committing, busy, FreezeCause.byte]
  · have thaw := exec_thaw_frozen (form := form) hs frozen
    rw [← hu] at thaw
    have queue : u.queue = s.queue := by rw [hu]; rfl
    have settings : u.settings = s.settings := by rw [hu]; rfl
    refine ⟨fun empty => ?_, fun undue => ⟨u.proceed, rfl, ?_⟩,
      fun accession e he hea => ⟨_, exec_stageReached accession u, ?_⟩⟩
    · rw [thaw, State.reachAllStages_of_empty (queue.trans empty),
        State.proceed_of_none fun _ => by simp [State.readyCount, queue, empty]]
    · rw [thaw, reachAllStages_of_undue (s := u) (by rw [queue, settings]; exact undue)]
    · rw [thaw, State.reachAllStages, queue, he, ← hea]
      rfl
  · by_cases frozen : s.engine.frozen = true
    · exact ⟨_, exec_thaw_frozen hs frozen, by simp, by simp, by simp⟩
    · exact ⟨_, exec_thaw_thawed hs (by simpa using frozen), by simp, by simpa using frozen, by simp⟩

/-! ### SET SETTING and READ SETTING (R205, R206) -/

section
variable {s : State} {name : SettingName} {v : Fin 64}

/-- A setting that acts leaves the settings, the store, the link and the resolution (R205). -/
theorem settingActs_rest (s : State) (name : SettingName) (v : Fin 64) :
    (s.settingActs name v).settings = s.settings ∧ (s.settingActs name v).store = s.store ∧
      (s.settingActs name v).link = s.link ∧ (s.settingActs name v).resolution = s.resolution := by
  cases name <;> simp [State.settingActs]

theorem settingActs_quiet (h : name ∉ [.registered, .tHold1, .tHold2, .tHold3, .noticeEnables]) :
    s.settingActs name v = s := by
  cases name <;> simp_all [State.settingActs]

theorem settingActs_hold (h : name ∈ [SettingName.tHold1, .tHold2, .tHold3]) :
    s.settingActs name v = s.reachAllStages.proceed := by
  simp only [List.mem_cons, List.not_mem_nil, or_false] at h
  rcases h with rfl | rfl | rfl <;> rfl

theorem settingActs_registered : s.settingActs .registered v = s.setVolume v
    ⟨if s.settings.value v .registered = 1 then .online else .unregistered, 0, .idle⟩ := by
  cases h : (s.settings.policies.get v).registered <;>
    simp [State.settingActs, State.policyOf, h, Settings.value, yesNoValue, Volume.registeredAs, Volume.clean]

theorem settingActs_enables : s.settingActs .noticeEnables v = s.withNotices
    (if s.notices.armed = true ∧ s.notices.latched = false ∧
        s.notices.enabledPending s.settings.noticeEnables = true then
      { s.notices with armed := false, latched := true } else s.notices) := by
  rw [← Notices.testLatch_if]
  rfl

theorem exec_setSetting_refused {form number volume : Byte} {value : BitVec 32} (hs : s.ready)
    (h : ∀ name v, settingNamed number volume = some (name, v) → name.admits value.toNat = false) :
    exec (.setSetting form number volume value) s =
      .next (s.respond (.setSetting form number volume value) ⟨.malformed, [0x14, 0x41]⟩) := by
  refine congrArg Host.Outcome.next ((hostCommand_ready hs).trans ?_)
  cases hn : settingNamed number volume with
  | none => simp [State.setSetting, hn, malformedArguments_eq]
  | some x => simp [State.setSetting, hn, h x.1 x.2 hn, malformedArguments_eq]

end

/-- Settles O46: the value written, and what the setting governs. -/
theorem settingsWriteAndRead : Obligations.SettingsWriteAndRead := by
  unfold Obligations.SettingsWriteAndRead
  intro form number volume value s hs
  refine ⟨fun name v hn ha => ?_, exec_setSetting_refused hs, fun none => ?_, fun name v hn => ?_⟩
  · have live := s.settings.value_write_self v ha
    refine ⟨s.writeSetting name v value.toNat, _, exec_setSetting hs hn ha, live, ?_⟩
    by_cases same : (s.settings.write v value.toNat name).value v name = s.settings.value v name
    · rw [State.writeSetting_same same]
      exact ⟨same.symm, fun _ _ _ => rfl, rfl, rfl, rfl, fun _ => rfl, fun h => absurd same.symm h⟩
    · rw [State.writeSetting_changed same]
      obtain ⟨settings, store, link, resolution⟩ :=
        settingActs_rest (s.withSettings (s.settings.write v value.toNat name)) name v
      rw [State.withSettings_settings] at settings
      refine ⟨by rw [settings], fun other w h => ?_, store, link, resolution, fun h => absurd h.symm same,
        fun _ u hu => ?_⟩
      · rw [settings]; exact Settings.value_write_other _ _ h
      rw [settings] at hu ⊢
      rw [← hu]
      have us : u.settings = s.settings.write v value.toNat name := by rw [hu]; rfl
      have queue : u.queue = s.queue := by rw [hu]; rfl
      have notices : u.notices = s.notices := by rw [hu]; rfl
      have cursors : u.cursors = s.cursors := by rw [hu]; rfl
      refine ⟨settingActs_quiet, ?_, ?_, fun hold => ⟨fun undue => ?_, fun accession e he hea nodup others free => ?_⟩⟩
      · rintro rfl
        rw [settingActs_registered, us]
      · rintro rfl
        rw [settingActs_enables, us, notices]
      · rw [settingActs_hold hold, reachAllStages_of_undue (s := u) (by rw [queue, us]; exact undue)]
        rfl
      · rw [settingActs_hold hold, exec_stageReached, ← hea]
        refine congrArg (fun t => Host.Outcome.next t.proceed) (reachAllStages_eq (s := u) (queue ▸ he) (queue ▸ nodup)
          ?_ ?_).symm
        · rw [queue, us]
          exact fun x hx hne => others x hx fun h => hne (h ▸ rfl)
        · rw [queue, cursors]
          exact free
  · refine congrArg Host.Outcome.next ((hostQuery_ready hs).trans ?_)
    simp [State.readSetting, none, malformedArguments_eq]
  · refine congrArg Host.Outcome.next ((hostQuery_ready hs).trans ?_)
    simp [State.readSetting, hn, yesNo]

/-! ### The tick of the time base (R110, R165, R167) -/

/-- The expiry of one volume's interval, where it has come to its end. -/
def State.expireDue (s : State) (v : Fin 64) : State :=
  match (s.volumes.get v).timer with
  | .running i 0 => s.expire v i
  | _ => s

theorem takeExpiries_eq (s : State) : s.takeExpiries = (List.finRange 64).foldl State.expireDue s := rfl

section
variable {s : State} {v : Fin 64}

theorem expireDue_of_not_due (h : ∀ i, (s.volumes.get v).timer ≠ .running i 0) : s.expireDue v = s := by
  unfold State.expireDue
  split
  · rename_i i hi
    exact absurd hi (h i)
  · rfl

theorem expireDue_of_due {i : Interval} (h : (s.volumes.get v).timer = .running i 0) :
    s.expireDue v = s.expire v i := by
  simp only [State.expireDue, h]

theorem takeExpiries_of_none (h : ∀ v i, (s.volumes.get v).timer ≠ .running i 0) : s.takeExpiries = s :=
  foldl_of_fixed _ fun v _ => expireDue_of_not_due (h v)

/-- An expiry starts the next interval in full, or leaves the timer idle. -/
theorem expire_timer (e : Volume) (i j : Interval) (st : Settings) (policy : VolumePolicy)
    (hw : 0 < st.tPwait) (hp : 0 < st.tPto) : (e.expire i st policy v).entry.timer ≠ .running j 0 := by
  have wait : (e.fail st).timer ≠ .running j 0 := by simp [Volume.fail, Volume.start, Settings.interval]; omega
  have probe : (e.probe st).timer ≠ .running j 0 := by
    simp [Volume.probe, Volume.start, Settings.interval]; omega
  unfold Volume.expire
  split
  · simp [VolumeMove.quiet, Volume.clean]
  · split
    · exact probe
    · simp [VolumeMove.quiet]
  · exact wait
  · split
    · simp [Volume.clean]
    · simp [VolumeMove.quiet]
  · simp [VolumeMove.quiet]

theorem expire_volumes {i : Interval} (h : (s.volumes.get v).timer = .running i 0) :
    (s.expire v i).volumes =
      s.volumes.set v ((s.volumes.get v).expire i s.settings (s.policyOf v) v).entry := by
  rw [State.expire_due h, State.moveVolume]
  split <;> rfl

theorem expire_pins (s : State) (v : Fin 64) (i : Interval) : (s.expire v i).pins = s.pins := by
  rcases s.expire_cases v i with h | ⟨-, h⟩ <;> rw [h]
  rw [State.moveVolume]
  split <;> rfl

/-- The lowest volume's expiry, taken first. -/
theorem takeExpiries_expire {i : Interval} (h : (s.volumes.get v).timer = .running i 0)
    (lower : ∀ w j, w < v → (s.volumes.get w).timer ≠ .running j 0) (hw : 0 < s.settings.tPwait)
    (hp : 0 < s.settings.tPto) : (s.expire v i).takeExpiries = s.takeExpiries := by
  obtain ⟨before, after, split⟩ := List.append_of_mem (List.mem_finRange v)
  have below : ∀ w ∈ before, w < v := by
    have order := List.pairwise_lt_finRange 64
    rw [split, List.pairwise_append] at order
    exact fun w hw => order.2.2 w hw v List.mem_cons_self
  have volumes := expire_volumes h
  have stays : ∀ w ∈ before, s.expireDue w = s := fun w hw =>
    expireDue_of_not_due fun j => lower w j (below w hw)
  have stays' : ∀ w ∈ before, (s.expire v i).expireDue w = s.expire v i := fun w hb =>
    expireDue_of_not_due fun j => by
      rw [volumes, Table.get_set_ne _ _ (below w hb).ne']
      exact lower w j (below w hb)
  have own : (s.expire v i).expireDue v = s.expire v i := expireDue_of_not_due fun j => by
    rw [volumes, Table.get_set_self]
    exact expire_timer _ _ _ _ _ hw hp
  rw [takeExpiries_eq, takeExpiries_eq, split, List.foldl_append, List.foldl_append, foldl_of_fixed _ stays,
    foldl_of_fixed _ stays', List.foldl_cons, List.foldl_cons, own, expireDue_of_due h]

end

theorem exec_timeBaseTick {s : State} (h : s.pins.held = false) : exec .timeBaseTick s = .next s.tick := by
  simp [exec, execTimeBaseTick, h]

theorem count_eq (s : State) :
    s.count = ((s.withMilliseconds (s.milliseconds + 1)).withVolumes s.count.volumes).withQueue s.count.queue := by
  unfold State.count
  dsimp only
  split <;> rfl

theorem count_volumes (s : State) : s.count.volumes = s.volumes.map Volume.ticked := by
  unfold State.count
  dsimp only
  split <;> rfl

/-- The READY entries after a millisecond are those before it. -/
theorem mem_count_queue {s : State} {x : Entry} (hx : x ∈ s.count.queue) :
    ∃ y ∈ s.queue, x.accession = y.accession ∧ x.state = y.state := by
  rw [State.count_queue] at hx
  split at hx
  · exact ⟨x, hx, rfl, rfl⟩
  · obtain ⟨y, hy, rfl⟩ := List.mem_map.1 hx
    exact ⟨y, hy, y.ticked_accession, y.ticked_state⟩

theorem count_readyTaken {s : State} (h : s.readyTaken) : s.count.readyTaken := fun hm => by
  refine readyCount_eq_zero.2 fun x hx => ?_
  obtain ⟨y, hy, -, state⟩ := mem_count_queue hx
  rw [state]
  have may : s.mayTake = true := by simpa [State.mayTake_eq_true] using hm
  exact readyCount_eq_zero.1 (h may) y hy

theorem count_accessions (s : State) : s.count.queue.map (·.accession) = s.queue.map (·.accession) := by
  rw [State.count_queue]
  split
  · rfl
  · simp [Function.comp_def]

/-- Settles O49: the millisecond counted, and an expiry left due taken before it. -/
theorem tickCounts : Obligations.TickCounts := by
  unfold Obligations.TickCounts
  refine ⟨fun s held none => ⟨s.count, count_eq s, fun v => ?_, fun frozen => ?_, fun thawed => ?_,
    fun taken undue => ?_, fun accession e thawed he hea nodup others free => ?_⟩,
    fun s t v i held due lower hw hp ht => ?_⟩
  · rw [count_volumes, Table.get_map]
    unfold Volume.ticked Timer.ticked
    cases (s.volumes.get v).timer <;> rfl
  · rw [State.count_queue, if_pos frozen]
  · rw [State.count_queue, if_neg (by simp [thawed])]
    rfl
  · rw [exec_timeBaseTick held, State.tick, takeExpiries_of_none none,
      reachAllStages_of_undue (by simpa using undue), State.proceed_of_none (count_readyTaken taken)]
  · have entry : e.ticked ∈ s.count.queue := by
      rw [State.count_queue, if_neg (by simp [thawed])]
      exact List.mem_map_of_mem he
    rw [exec_timeBaseTick held, State.tick, takeExpiries_of_none none, exec_stageReached,
      reachAllStages_eq entry (count_accessions s ▸ nodup) ?_ fun x hx hr => ?_, Entry.ticked_accession, hea]
    · rw [Entry.ticked_accession, hea, State.count_settings]
      exact others
    · obtain ⟨y, hy, accession, state⟩ := mem_count_queue hx
      rw [accession, State.count_cursors]
      exact free y hy (state ▸ hr)
  · have next : t = s.expire v i := by
      cases i <;> exact (Host.Outcome.next.inj ht).symm
    have pins : t.pins = s.pins := next ▸ expire_pins s v i
    refine ⟨pins, fun j => ?_, ?_⟩
    · rw [next, expire_volumes due, Table.get_set_self]
      exact expire_timer _ _ _ _ _ hw hp
    · rw [exec_timeBaseTick held, exec_timeBaseTick (by rw [pins, held]), State.tick, State.tick, next,
        takeExpiries_expire due lower hw hp]

end Sys2Proof.Machine
end

section
/-! SUPPORT. The stages an age has come to, reached in turn, and their actions on the cursors (R167 to R170). -/

namespace Sys2Proof.Machine

/-! ### The actions of the stages reached -/

/-- A stage's action, apart from the entry's stage (R168 to R170). -/
def State.act (s : State) (a : Nat) : Action → State
  | .none => s
  | .notify => s.raise .changeStage
  | .yield => (s.raise .changeStage).yieldAll a
  | .detach => (s.raise .changeStage).detachAll a

section
variable (s : State) (a k : Nat)

theorem takeStage_act : s.takeStage a k = (s.act a (s.settings.action k)).withQueue
    (modifyEntry a (fun e => { e with stage := k }) s.queue) := by
  unfold State.takeStage
  dsimp only
  rw [State.withQueue_settings]
  cases s.settings.action k with
  | none => rfl
  | notify => rfl
  | yield => rfl
  | detach => simp only [State.act, State.detachAll_eq]; rfl

theorem act_withQueue (x : Action) (q : List Entry) : (s.withQueue q).act a x = (s.act a x).withQueue q := by
  cases x with
  | none => rfl
  | notify => rfl
  | yield => rfl
  | detach => simp only [State.act, State.detachAll_eq]; rfl

theorem foldl_act_withQueue (l : List Action) (q : List Entry) :
    l.foldl (fun t x => t.act a x) (s.withQueue q) = (l.foldl (fun t x => t.act a x) s).withQueue q := by
  induction l generalizing s with
  | nil => rfl
  | cons x rest ih => rw [List.foldl_cons, act_withQueue, ih, List.foldl_cons]

@[simp] theorem act_settings (x : Action) : (s.act a x).settings = s.settings := by
  cases x <;> simp [State.act, State.yieldAll, State.detachAll_eq]

/-- The stages reached are the actions taken, and the stage recorded. -/
theorem foldl_takeStage_act (l : List Nat) (q : List Entry) :
    (l.foldl (fun t k => t.takeStage a k) s).withQueue q =
      ((l.map s.settings.action).foldl (fun t x => t.act a x) s).withQueue q := by
  induction l generalizing s with
  | nil => rfl
  | cons k rest ih =>
    rw [List.foldl_cons, ih, List.map_cons, List.foldl_cons, takeStage_act, State.withQueue_settings,
      act_settings, foldl_act_withQueue]
    rfl

/-- A raise made again changes nothing. -/
theorem raise_changeStage_twice : (s.raise .changeStage).raise .changeStage = s.raise .changeStage := by
  have twice : ∀ (n : Notices) (enables : BitVec 10),
      (((n.record .changeStage).testLatch enables).record .changeStage).testLatch enables =
        (n.record .changeStage).testLatch enables := fun n enables => by
    have same : ((n.record .changeStage).testLatch enables).record .changeStage =
        (n.record .changeStage).testLatch enables := by
      unfold Notices.testLatch
      split <;> rfl
    rw [same]
    have settled := Notices.testLatch_settled (n.record .changeStage) enables
    rw [Notices.testLatch_if, if_neg fun ⟨h1, h2, h3⟩ => settled ⟨h2, h1, h3⟩]
  exact congrArg s.withNotices (twice s.notices s.settings.noticeEnables)

theorem names_yielded (c : Cursor) : c.yielded.names a = c.names a := rfl

theorem yieldAll_twice : (s.yieldAll a).yieldAll a = s.yieldAll a := by
  refine congrArg s.withCursors (Table.ext_get fun n => ?_)
  rw [Table.get_map, State.yieldAll, State.withCursors_cursors, Table.get_map]
  by_cases h : (s.cursors.get n).names a = true
  · have once : ∀ c : Cursor, c.yielded.yielded = c.yielded := fun c => by
      unfold Cursor.yielded
      split <;> simp_all
    simp [h, names_yielded, once]
  · simp [h]

end

/-- What actions that detach nothing leave: CHANGE_STAGE raised where one is not NONE, and the cursors that name
the item yielding where one is a YIELD (R168, R169). -/
def State.acted (s : State) (a : Nat) (l : List Action) : State :=
  let t := if ∃ x ∈ l, x ≠ .none then s.raise .changeStage else s
  if .yield ∈ l then t.yieldAll a else t

theorem foldl_act_of_undetached (s : State) (a : Nat) {l : List Action} (h : .detach ∉ l) :
    l.foldl (fun t x => t.act a x) s = s.acted a l := by
  induction l generalizing s with
  | nil => simp [State.acted]
  | cons x rest ih =>
    rw [List.foldl_cons, ih _ fun hr => h (List.mem_cons_of_mem x hr)]
    cases x with
    | detach => exact absurd List.mem_cons_self h
    | none => simp [State.acted, State.act]
    | notify =>
      by_cases hn : ∃ x ∈ rest, x ≠ Action.none <;>
        simp [State.acted, State.act, hn, raise_changeStage_twice]
    | yield =>
      have commute : ∀ t : State, (t.yieldAll a).raise .changeStage = (t.raise .changeStage).yieldAll a :=
        fun _ => rfl
      by_cases hn : ∃ x ∈ rest, x ≠ Action.none <;> by_cases hy : Action.yield ∈ rest <;>
        simp [State.acted, State.act, hn, hy, commute, raise_changeStage_twice, yieldAll_twice]

/-! ### The stages that are due (R167) -/

section
variable {e : Entry} {st : Settings} {k : Nat}

/-- Thresholds add up, so the stages due are those after the entry's own up to the highest reached. -/
theorem dueStages_eq (hk : e.stage < k) (h3 : k ≤ 3) (reached : st.threshold k ≤ e.age)
    (next : k < 3 → e.age < st.threshold (k + 1)) : e.dueStages st = ([1, 2, 3].take k).drop e.stage := by
  have due : ∀ j ∈ [1, 2, 3], (e.stage < j ∧ st.threshold j ≤ e.age) ↔ (e.stage < j ∧ j ≤ k) := by
    simp only [List.mem_cons, List.not_mem_nil, or_false]
    intro j hj
    simp only [Settings.threshold] at reached next ⊢
    rcases hj with rfl | rfl | rfl <;> interval_cases k <;> simp at reached next ⊢ <;> omega
  rw [Entry.dueStages, List.filter_congr (q := fun j => decide (e.stage < j ∧ j ≤ k))
    (fun j hj => decide_eq_decide.2 (due j hj))]
  generalize e.stage = n at hk
  interval_cases k <;> interval_cases n <;> rfl

/-- The last of them is the highest reached. -/
theorem getLast_stages (hk : e.stage < k) (h3 : k ≤ 3) :
    ∃ h : ([1, 2, 3].take k).drop e.stage ≠ [], (([1, 2, 3].take k).drop e.stage).getLast h = k := by
  generalize e.stage = n at hk
  interval_cases k <;> interval_cases n <;> exact ⟨by decide, rfl⟩

/-- Their actions (R166). -/
theorem map_action_stages (st : Settings) (k n : Nat) :
    (([1, 2, 3].take k).drop n).map st.action = ([st.act1, st.act2, st.act3].take k).drop n := by
  rw [List.map_drop, List.map_take]
  rfl

end

section
variable {s t : State} {a k : Nat} {e : Entry}

/-- The stages of a WAITING entry reached: the actions taken, the stage recorded, the counts settled. -/
theorem reachStages_acted (thawed : s.engine.frozen = false) (he : s.entry? a = some e)
    (hw : e.state = .waiting) (hk : e.stage < k) (h3 : k ≤ 3) (reached : s.settings.threshold k ≤ e.age)
    (next : k < 3 → e.age < s.settings.threshold (k + 1)) :
    s.reachStages a =
      ((((([s.settings.act1, s.settings.act2, s.settings.act3].take k).drop e.stage).foldl
        (fun t x => t.act a x) s)).withQueue
        (modifyEntry a (fun x => { x with stage := k }) s.queue)).settleCounts := by
  have due := dueStages_eq hk h3 reached next
  obtain ⟨some, last⟩ := getLast_stages (e := e) hk h3
  have folded : s.reachStages a =
      (((([1, 2, 3].take k).drop e.stage).foldl (fun t k => t.takeStage a k) s)).settleCounts := by
    simp only [State.reachStages, thawed, Bool.false_eq_true, if_false, he, hw, if_true, due]
  have queue := s.foldl_takeStage_queue a _ some
  rw [last] at queue
  rw [folded, ← map_action_stages, ← foldl_takeStage_act, ← queue, State.withQueue_self]

/-! ### Settled counts through the stages (R72, R161) -/

theorem follow_withStage (e : Entry) (k n : Nat) :
    ({ e with stage := k } : Entry).follow n = { e.follow n with stage := k } := by
  obtain ⟨accession, payload, state, age, stage⟩ := e
  unfold Entry.follow
  cases state with
  | waiting => dsimp only; split <;> rfl
  | ready => dsimp only; split <;> rfl
  | committing => rfl

/-- Where no path is dropped, the counts stay settled. -/
theorem settleCounts_staged (hs : s.settleCounts = s) (index : t.index = s.index)
    (paths : ∀ n, (t.cursors.get n).path = (s.cursors.get n).path)
    (queue : t.queue = modifyEntry a (fun x => { x with stage := k }) s.queue) : t.settleCounts = t := by
  have counts : s.index.counted s.cursors = s.index := congrArg State.index hs
  have follows : ∀ x ∈ s.queue, x.follow (framesNaming s.cursors x.accession) = x :=
    List.map_inj_left.1 ((congrArg State.queue hs).trans s.queue.map_id.symm)
  have counts' : t.index.counted t.cursors = t.index := by
    rw [index]
    refine Eq.trans ?_ counts
    simp only [Index.counted, framesNaming_congr paths]
  have follows' : t.queue.map (fun x => x.follow (framesNaming t.cursors x.accession)) = t.queue := by
    refine (List.map_congr_left fun x hx => ?_).trans t.queue.map_id
    rw [framesNaming_congr paths]
    rw [queue] at hx
    obtain ⟨y, hy, rfl⟩ := List.mem_map.1 hx
    split
    · rw [follow_withStage]
      exact congrArg (fun z : Entry => { z with stage := k }) (follows y hy)
    · exact follows y hy
  rw [State.settleCounts, counts', follows']
  rfl

/-- A stage recorded makes no entry READY. -/
theorem proceed_staged (taken : s.readyTaken) (may : t.mayTake = s.mayTake)
    (queue : t.queue = modifyEntry a (fun x => { x with stage := k }) s.queue) : t.proceed = t := by
  refine State.proceed_of_none fun hm => readyCount_eq_zero.2 fun x hx => ?_
  rw [queue] at hx
  obtain ⟨y, hy, rfl⟩ := List.mem_map.1 hx
  have idle := readyCount_eq_zero.1 (taken (may ▸ hm)) y hy
  split <;> exact idle

theorem acted_rest (s : State) (a : Nat) (l : List Action) : (s.acted a l).index = s.index ∧
    (s.acted a l).mayTake = s.mayTake ∧ (s.acted a l).settings = s.settings ∧
    (s.acted a l).queue = s.queue ∧
    (s.acted a l).cursors =
      if .yield ∈ l then s.cursors.map fun c => if c.names a then c.yielded else c else s.cursors := by
  unfold State.acted
  dsimp only
  split <;> split <;> exact ⟨rfl, rfl, rfl, rfl, rfl⟩

theorem acted_paths (s : State) (a : Nat) (l : List Action) (n : Fin 16) :
    ((s.acted a l).cursors.get n).path = (s.cursors.get n).path := by
  rw [(acted_rest s a l).2.2.2.2]
  split
  · rw [Table.get_map]
    split <;> rfl
  · rfl

/-- Stages that detach nothing leave the counts settled and the engine as it was. -/
theorem exec_stageReached_undetached {accession : BitVec 24} {l : List Action} (settled : s.settled)
    (h : s.reachStages accession.toNat = ((l.foldl (fun t x => t.act accession.toNat x) s).withQueue
      (modifyEntry accession.toNat (fun x => { x with stage := k }) s.queue)).settleCounts)
    (undetached : .detach ∉ l) : exec (.stageReached accession) s = .next
      ((s.acted accession.toNat l).withQueue
        (modifyEntry accession.toNat (fun x => { x with stage := k }) s.queue)) := by
  obtain ⟨index, may, -⟩ := acted_rest s accession.toNat l
  rw [exec_stageReached, h, foldl_act_of_undetached s _ undetached]
  obtain ⟨u, hu⟩ : ∃ u, u = (s.acted accession.toNat l).withQueue
      (modifyEntry accession.toNat (fun x => { x with stage := k }) s.queue) := ⟨_, rfl⟩
  rw [← hu]
  have queue : u.queue = modifyEntry accession.toNat (fun x => { x with stage := k }) s.queue := by
    rw [hu]; rfl
  rw [settleCounts_staged settled.1 (hu ▸ index) (hu ▸ acted_paths s _ l) queue,
    proceed_staged settled.2 (hu ▸ may) queue]

end

/-! ### A detach (R100, R170) -/

section
variable {s : State} {a : Nat}

theorem noticesFor_changeStage (p : Fin 16 → Bool) (enables : BitVec 10) (l : List (Fin 16)) (n : Notices) :
    (noticesFor p Notice.cursorDetached enables l n).changeStage = n.changeStage := by
  unfold noticesFor
  refine foldl_keeps (P := fun m : Notices => m.changeStage = n.changeStage) (fun m c h => ?_) _ rfl
  split
  · simpa [Notices.record] using h
  · exact h

/-- What a detach has raised, and what later actions and takes leave raised. -/
def Notices.detachNoted (n : Notices) (named : Fin 16 → Bool) : Prop :=
  n.changeStage = true ∧ ∀ c, named c = true → n.cursorDetached.getLsbD c.val = true

theorem detachNoted_raise {named : Fin 16 → Bool} (x : Notice) (hx : x = .changeStage ∨ x = .commitFailed)
    (h : s.notices.detachNoted named) : (s.raise x).notices.detachNoted named := by
  obtain ⟨stage, bits⟩ := h
  rcases hx with rfl | rfl <;> exact ⟨by simp [Notices.record, stage], by simpa [Notices.record] using bits⟩

theorem detachNoted_detachAll {named : Fin 16 → Bool} (h : s.notices.detachNoted named) :
    (s.detachAll a).notices.detachNoted named := by
  obtain ⟨stage, bits⟩ := h
  rw [State.detachAll_eq]
  refine ⟨(noticesFor_changeStage ..).trans stage, fun c hc => ?_⟩
  exact (noticesFor_cursorDetached ..).trans (by simp [bits c hc])

theorem detachNoted_act {named : Fin 16 → Bool} (x : Action) (h : s.notices.detachNoted named) :
    (s.act a x).notices.detachNoted named := by
  cases x with
  | none => exact h
  | notify => exact detachNoted_raise _ (.inl rfl) h
  | yield => exact detachNoted_raise (s := s) _ (.inl rfl) h
  | detach => exact detachNoted_detachAll (detachNoted_raise _ (.inl rfl) h)

/-- A detach raises for every cursor that names the item. -/
theorem detachNoted_detach (s : State) (a : Nat) :
    (s.act a .detach).notices.detachNoted fun n => (s.cursors.get n).names a := by
  simp only [State.act, State.detachAll_eq]
  refine ⟨(noticesFor_changeStage ..).trans (by simp [Notices.record]), fun c hc => ?_⟩
  exact (noticesFor_cursorDetached ..).trans (by simp [hc])

theorem detach_cursors (s : State) (a : Nat) (n : Fin 16) : (s.act a .detach).cursors.get n =
    if (s.cursors.get n).names a then (s.cursors.get n).detachedNow else s.cursors.get n := by
  simp [State.act, State.detachAll_eq]

/-- Where no cursor names the item, an action moves none. -/
theorem act_cursors_of_unnamed (x : Action) (h : ∀ n, (s.cursors.get n).names a = false) :
    (s.act a x).cursors = s.cursors := by
  refine Table.ext_get fun n => ?_
  cases x with
  | none => rfl
  | notify => rfl
  | yield => simp [State.act, State.yieldAll, h]
  | detach => simp [detach_cursors, h]

/-- A YIELD before the detach leaves its flag. -/
theorem acted_detach_cursors (s : State) (a : Nat) (before : List Action) (n : Fin 16) :
    ((s.acted a before).act a .detach).cursors.get n =
      if (s.cursors.get n).names a then
        { (s.cursors.get n).detachedNow with
          yieldFlag := (s.cursors.get n).yieldFlag || decide (.yield ∈ before) }
      else s.cursors.get n := by
  have yielded : ∀ c : Cursor, c.yielded.detachedNow = { c.detachedNow with yieldFlag := true } := fun _ => rfl
  rw [detach_cursors, (acted_rest s a before).2.2.2.2]
  by_cases hn : (s.cursors.get n).names a = true <;> by_cases hy : Action.yield ∈ before <;>
    simp [hy, hn, names_yielded, yielded]
  simp [Cursor.detachedNow]

theorem framesNaming_detached (s : State) (a : Nat) (before : List Action) :
    framesNaming ((s.acted a before).act a .detach).cursors a = 0 := by
  refine framesNaming_eq_zero.2 fun c hc => ?_
  obtain ⟨n, rfl⟩ := Table.mem_list_iff.1 hc
  rw [acted_detach_cursors]
  split
  · simp [Cursor.detachedNow]
  · rename_i h
    simpa [Cursor.names] using h

/-- After the first detach no cursor names the item, and what it noted stays. -/
theorem foldl_act_detached (s : State) (a : Nat) {before after : List Action} (hb : .detach ∉ before) :
    ((before ++ Action.detach :: after).foldl (fun t x => t.act a x) s).cursors =
        ((s.acted a before).act a .detach).cursors ∧
      ((before ++ Action.detach :: after).foldl (fun t x => t.act a x) s).notices.detachNoted
        fun n => (s.cursors.get n).names a := by
  have unnamed : ∀ n, (((s.acted a before).act a .detach).cursors.get n).names a = false := fun n => by
    have := framesNaming_eq_zero.1 (framesNaming_detached s a before) _ (Table.get_mem _ n)
    simpa [Cursor.names] using this
  have noted := detachNoted_detach (s.acted a before) a
  simp only [Cursor.names, acted_paths] at noted
  rw [List.foldl_append, foldl_act_of_undetached s a hb, List.foldl_cons]
  exact foldl_keeps (P := fun t : State => t.cursors = ((s.acted a before).act a .detach).cursors ∧
      t.notices.detachNoted fun n => (s.cursors.get n).names a)
    (fun t x ⟨cursors, h⟩ => ⟨(act_cursors_of_unnamed x (cursors ▸ unnamed)).trans cursors, detachNoted_act x h⟩)
    after ⟨rfl, noted⟩

/-- An entry whose item nothing names any more waits no more (R161). -/
theorem staged_of_unused {k : Nat} (q : List Entry) (none : framesNaming s.cursors a = 0) :
    ∀ x ∈ (s.withQueue (modifyEntry a (fun x => { x with stage := k }) q)).settleCounts.queue,
      x.accession = a → x.state ≠ .waiting ∧ x.stage = k := by
  intro x hx ha
  rw [State.settleCounts_queue] at hx
  obtain ⟨y, hy, rfl⟩ := List.mem_map.1 hx
  obtain ⟨z, hz, rfl⟩ := List.mem_map.1 (show y ∈ modifyEntry _ _ q from hy)
  rw [Entry.follow_accession] at ha
  have own : z.accession = a := by
    by_contra hne
    rw [if_neg hne] at ha
    exact hne ha
  rw [if_pos own, Entry.follow_stage]
  refine ⟨fun hw => ?_, rfl⟩
  have used := (Entry.follow_used _ _).1 hw
  simp [own, none] at used

/-- What the engine's take leaves of a detach: the notices, the entry's stage, and the counts. -/
theorem proceed_detached {named : Fin 16 → Bool} {k : Nat} (noted : s.notices.detachNoted named)
    (entry : ∀ x ∈ s.queue, x.accession = a → x.state ≠ .waiting ∧ x.stage = k)
    (counts : ∀ x ∈ s.index.entries, x.useCount = framesNaming s.cursors x.accession) :
    s.proceed.notices.detachNoted named ∧
      (∀ x ∈ s.proceed.queue, x.accession = a → x.state ≠ .waiting ∧ x.stage = k) ∧
      ∀ x ∈ s.proceed.index.entries, x.useCount = framesNaming s.proceed.cursors x.accession := by
  refine State.proceed_keeps (P := fun t => t.notices.detachNoted named ∧
      (∀ x ∈ t.queue, x.accession = a → x.state ≠ .waiting ∧ x.stage = k) ∧
      ∀ x ∈ t.index.entries, x.useCount = framesNaming t.cursors x.accession)
    (fun t e o ⟨noted, entry, counts⟩ _ _ _ => ⟨?_, fun x hx => ?_, ?_⟩)
    (fun t e ⟨noted, entry, counts⟩ _ _ _ => ⟨noted, fun x hx => ?_, counts⟩) ⟨noted, entry, counts⟩
  · exact detachNoted_raise _ (.inr rfl) (by simpa using noted)
  · rw [State.lateFailure_queue] at hx
    exact entry x (List.mem_filter.1 hx).1
  · simpa [State.lateFailure, State.removeEntry] using Index.counts_setPending counts
  · obtain ⟨y, hy, rfl⟩ := List.mem_map.1 (show x ∈ modifyEntry e.accession _ t.queue from hx)
    split
    · exact fun ha => ⟨by simp, (entry y hy ha).2⟩
    · exact entry y hy

end

/-- Settles O50: the stages due, reached in turn, are their actions taken and the highest stage recorded. -/
theorem stageReachedActs : Obligations.StageReachedActs := by
  unfold Obligations.StageReachedActs
  rintro accession s e k thawed settled he hw nodup hk h3 due next reached actions rfl rfl
  have acted := reachStages_acted thawed he hw hk h3 due next
  refine ⟨fun none => ?_, fun some unyielded undetached => ?_, fun yields undetached => ?_,
    fun before after split hb => ?_⟩
  · have quiet : ¬∃ x ∈ _, x ≠ Action.none := fun ⟨x, hx, h⟩ => h (none x hx)
    rw [exec_stageReached_undetached settled acted fun h => by simpa using none _ h, State.acted,
      if_neg quiet, if_neg fun h => by simpa using none _ h]
    rfl
  · rw [exec_stageReached_undetached settled acted undetached, State.acted, if_pos some, if_neg unyielded]
    rfl
  · have some : ∃ x ∈ _, x ≠ Action.none := ⟨_, yields, by decide⟩
    rw [exec_stageReached_undetached settled acted undetached, State.acted, if_pos some, if_pos yields]
    rfl
  · obtain ⟨cursors, noted⟩ := foldl_act_detached s accession.toNat (after := after) hb
    rw [split] at acted
    generalize (before ++ Action.detach :: after).foldl (fun t x => t.act accession.toNat x) s = u at *
    have none : framesNaming u.cursors accession.toNat = 0 := cursors ▸ framesNaming_detached s _ before
    have moved := acted_detach_cursors s accession.toNat before
    rw [← cursors] at moved
    obtain ⟨w, hw⟩ : ∃ w, w = u.withQueue
        (modifyEntry accession.toNat (fun x => { x with stage := k }) s.queue) := ⟨_, rfl⟩
    have kept : w.settleCounts.cursors = u.cursors ∧ w.settleCounts.notices = u.notices := by
      rw [hw]; exact ⟨rfl, rfl⟩
    obtain ⟨noted, entry, counts⟩ := proceed_detached (s := w.settleCounts) (kept.2 ▸ noted)
      (hw ▸ staged_of_unused s.queue none) (State.settleCounts_counts w)
    refine ⟨w.settleCounts.proceed, by rw [exec_stageReached, acted, ← hw], noted.1,
      fun n hn => ⟨?_, noted.2 n hn⟩, fun n hn => ?_, ?_, entry, counts⟩
    all_goals rw [State.proceed_cursors, kept.1]
    · exact (moved n).trans (if_pos hn)
    · exact (moved n).trans (if_neg (by simpa [Cursor.names] using hn))
    · exact none

end Sys2Proof.Machine
end

section
/-! SUPPORT. The cursor commands: their refusals, the path work of OPEN CURSOR and SEEK, the loops, and what
follows path work in the deferral queue (sections 4.5, 5.1 to 5.4). -/

namespace Sys2Proof.Machine

/-! ### What follows path work (R72, R161, R162, R167) -/

section
variable {s : State}

/-- A notice for what stopped a walk, as the obligations write it. -/
theorem raiseStop_eq_stopRaised (s : State) (n : Fin 16) (stop : Option Stop) :
    s.raiseStop n stop = stopRaised s n stop := by
  unfold State.raiseStop stopRaised
  cases stop with
  | none => rfl
  | some x => cases x <;> rfl

/-- An entry following its count, written out (R161). -/
theorem Entry.follow_eq (e : Entry) (n : Nat) : e.follow n =
    if e.state = .waiting ∧ n = 0 then { e with state := .ready }
    else if e.state = .ready ∧ 0 < n then { e with state := .waiting } else e := by
  unfold Entry.follow
  cases h : e.state <;> simp

theorem settleCounts_written (s : State) : s.settleCounts =
    (s.withIndex { s.index with
      entries := s.index.entries.map fun x =>
        { x with useCount := framesNaming s.cursors x.accession } }).withQueue
      (s.queue.map fun e =>
        if e.state = .waiting ∧ framesNaming s.cursors e.accession = 0 then { e with state := .ready }
        else if e.state = .ready ∧ 0 < framesNaming s.cursors e.accession then { e with state := .waiting }
        else e) := by
  rw [State.settleCounts]
  simp only [Entry.follow_eq]
  rfl

/-- Where no entry comes back to WAITING with a stage due, the counts alone settle. -/
theorem settle_of_undue (nodup : (s.queue.map (·.accession)).Nodup)
    (h : ∀ e ∈ s.queue, e.state = .ready → framesNaming s.cursors e.accession = 0 ∨
      s.engine.frozen = true ∨ e.dueStages s.settings = []) : s.settle = s.settleCounts := by
  refine foldl_of_fixed _ fun a ha => ?_
  by_cases frozen : s.engine.frozen = true
  · exact reachStages_of_frozen frozen
  refine reachStages_of_undue fun x hx hxa _ => ?_
  rw [State.settleCounts_queue] at hx
  obtain ⟨y, hy, rfl⟩ := List.mem_map.1 hx
  obtain ⟨e, he, hea⟩ := List.mem_map.1 ha
  obtain ⟨heq, back⟩ := List.mem_filter.1 he
  have same : y = e := List.inj_on_of_nodup_map nodup hy heq (by simpa [hea] using hxa)
  subst same
  simp only [Bool.and_eq_true, beq_iff_eq, decide_eq_true_eq] at back
  have undue := (h y hy back.1).resolve_left (by omega) |>.resolve_left frozen
  simpa [Entry.dueStages] using undue

/-- Where one entry comes back to WAITING, its stages are reached. -/
theorem settle_of_one {e : Entry} (nodup : (s.queue.map (·.accession)).Nodup) (he : e ∈ s.queue)
    (ready : e.state = .ready) (used : 0 < framesNaming s.cursors e.accession)
    (others : ∀ x ∈ s.queue, x ≠ e → x.state = .ready → framesNaming s.cursors x.accession = 0) :
    s.settle = s.settleCounts.reachStages e.accession := by
  obtain ⟨before, after, hq⟩ := List.append_of_mem he
  obtain ⟨hb, ha⟩ := accession_ne_of_nodup (hq ▸ nodup)
  have quiet : ∀ x ∈ s.queue, x.accession ≠ e.accession →
      ¬(x.state == .ready && decide (0 < framesNaming s.cursors x.accession)) = true := fun x hx hne h => by
    simp only [Bool.and_eq_true, beq_iff_eq, decide_eq_true_eq] at h
    have := others x hx (fun e => hne (e ▸ rfl)) h.1
    omega
  have back : s.reentering = [e.accession] := by
    rw [State.reentering, hq, List.filter_append, List.filter_cons_of_pos (by simp [ready, used]),
      List.filter_eq_nil_iff.2 fun x hx => quiet x (by simp [hq, hx]) (hb x hx),
      List.filter_eq_nil_iff.2 fun x hx => quiet x (by simp [hq, hx]) (ha x hx)]
    rfl
  rw [State.settle, back]
  rfl

/-- What follows a command's path work is what its settling does. -/
theorem pathWorkEnds_settleAndProceed (worked : State) : pathWorkEnds worked worked.settleAndProceed := by
  rintro u rfl
  rw [← settleCounts_written]
  refine ⟨State.settleAndProceed_of_empty, fun nodup => ⟨fun undue => ?_, fun accession e he hea ready used
    others => ?_⟩⟩
  · rw [exec_takeReadyEntry, State.settleAndProceed, settle_of_undue nodup undue]
  · rw [exec_stageReached, State.settleAndProceed, settle_of_one nodup he ready used others, hea]

end

/-! ### The order of checks of a cursor command (R82) -/

section
variable {s : State} {i : Instr} {cursor : Byte} {n : Fin 16} {inRange : Bool}
  {body : Fin 16 → State → State × Response}

theorem hostCommand_onCursor (hs : s.ready) (hn : cursor.toNat = n.val) (hr : inRange = true) :
    hostCommand i (onCursor cursor inRange body) s = (body n s).1.respond i (body n s).2 := by
  rw [hostCommand_ready hs, hr, onCursor_eq hn]

theorem hostCommand_onCursor_malformed (hs : s.ready) (h : 15 < cursor.toNat ∨ inRange = false) :
    hostCommand i (onCursor cursor inRange body) s = s.respond i ⟨.malformed, [0x14, 0x41]⟩ := by
  rw [hostCommand_ready hs]
  by_cases hn : cursor.toNat < 16
  · have out : inRange = false := h.resolve_left (by omega)
    rw [onCursor, cursorOf_eq (n := ⟨cursor.toNat, hn⟩) rfl]
    simp [out, malformedArguments_eq]
  · rw [onCursor_malformed (by omega), malformedArguments_eq]

end

theorem CopyPreference.ofByte_eq {b : Byte} {choice : CopyPreference}
    (h : CopyPreference.ofByte b = some choice) :
    [CopyPreference.primaryFirst, .secondaryFirst, .primaryOnly, .secondaryOnly][b.toNat]? = some choice := by
  unfold CopyPreference.ofByte at h
  split at h <;> simp_all

theorem CopyPreference.ofByte_isSome (b : Byte) : (CopyPreference.ofByte b).isSome = decide (b.toNat ≤ 3) := by
  unfold CopyPreference.ofByte
  split <;> simp_all
  omega

theorem openInRange_eq_false {position : BitVec 40} {chunk : BitVec 24} {clearance preference : Byte}
    {trim : BitVec 16} (h : 68719476735 < position.toNat ∨
      (chunk ≠ 0#24 ∧ (chunk.toNat < 10000 ∨ 2000000 < chunk.toNat)) ∨ 7 < clearance.toNat ∨
      3 < preference.toNat ∨ trim.toInt < -600 ∨ 120 < trim.toInt) :
    openInRange position chunk clearance preference trim = false := by
  rw [← Bool.not_eq_true]
  simp only [openInRange, CopyPreference.ofByte_isSome, trimInRange, Bool.and_eq_true, decide_eq_true_eq,
    Config.maxPosition, Config.minSpan, Config.maxChunk, Config.minGain, Config.maxGain]
  rintro ⟨⟨⟨⟨hp, hc⟩, hcl⟩, hpr⟩, ht⟩
  rcases h with h | ⟨h0, h⟩ | h | h | h | h
  · omega
  · have : chunk.toNat ≠ 0 := fun h => h0 (BitVec.eq_of_toNat_eq h)
    omega
  all_goals omega

theorem seekInRange_iff {kind : Byte} {value : BitVec 40} : seekInRange kind value = true ↔
    kind.toNat ≤ 2 ∧ (kind = 0#8 → value.toNat ≤ 68719476735) := by
  have zero : kind = 0#8 ↔ kind.toNat = 0 := ⟨fun h => h ▸ rfl, fun h => BitVec.eq_of_toNat_eq h⟩
  unfold seekInRange seekTarget
  rw [zero]
  split
  · rename_i h
    simp only [h, Config.maxPosition]
    split <;> simp_all
  · simp_all
  · simp_all
  · rename_i h0 h1 h2
    have above : ¬kind.toNat ≤ 2 := fun h => by
      rcases Nat.le_succ_iff.1 h with h | h
      · rcases Nat.le_one_iff_eq_zero_or_eq_one.1 h with h | h
        · exact h0 h
        · exact h1 h
      · exact h2 h
    simp [above]

/-! ### The commands with their arguments in range -/

section
variable {s : State} {form cursor : Byte} {n : Fin 16}

theorem exec_openCursor {accession : BitVec 24} {position : BitVec 40} {chunk : BitVec 24}
    {clearance preference : Byte} {trim : BitVec 16} (hs : s.ready) (hn : cursor.toNat = n.val)
    (hr : openInRange position chunk clearance preference trim = true) {answer : State × Response}
    (ha : s.openCursor form accession.toNat position.toNat chunk.toNat clearance.toNat
      ((CopyPreference.ofByte preference).getD .primaryFirst) trim.toInt n = answer) :
    exec (.openCursor form cursor accession position chunk clearance preference trim) s =
      .next (answer.1.respond (.openCursor form cursor accession position chunk clearance preference trim)
        answer.2) := by
  subst ha
  exact congrArg Host.Outcome.next (hostCommand_onCursor hs hn hr)

theorem exec_seek {kind : Byte} {value : BitVec 40} (hs : s.ready) (hn : cursor.toNat = n.val)
    (hr : seekInRange kind value = true) {answer : State × Response} (ha : s.seek form kind value n = answer) :
    exec (.seek form cursor kind value) s =
      .next (answer.1.respond (.seek form cursor kind value) answer.2) := by
  subst ha
  exact congrArg Host.Outcome.next (hostCommand_onCursor hs hn hr)

theorem exec_setLoop {start length : BitVec 40} (hs : s.ready) (hn : cursor.toNat = n.val)
    (h1 : start.toNat ≤ 68719476735) (h2 : length.toNat ≤ 68719476735) {answer : State × Response}
    (ha : s.setLoop form start.toNat length.toNat n = answer) :
    exec (.setLoop form cursor start length) s =
      .next (answer.1.respond (.setLoop form cursor start length) answer.2) := by
  subst ha
  exact congrArg Host.Outcome.next (hostCommand_onCursor hs hn (decide_eq_true ⟨h1, h2⟩))

theorem exec_clearLoop (hs : s.ready) (hn : cursor.toNat = n.val) {answer : State × Response}
    (ha : s.clearLoop n = answer) :
    exec (.clearLoop form cursor) s = .next (answer.1.respond (.clearLoop form cursor) answer.2) := by
  subst ha
  exact congrArg Host.Outcome.next (hostCommand_onCursor hs hn rfl)

theorem exec_fetch (hs : s.ready) (hn : cursor.toNat = n.val) {answer : State × Response}
    (ha : s.fetch form n = answer) :
    exec (.fetch form cursor) s = .next (answer.1.respond (.fetch form cursor) answer.2) := by
  subst ha
  exact congrArg Host.Outcome.next (hostCommand_onCursor hs hn rfl)

theorem exec_closeCursor (hs : s.ready) (hn : cursor.toNat = n.val) {answer : State × Response}
    (ha : s.closeCursor n = answer) :
    exec (.closeCursor form cursor) s = .next (answer.1.respond (.closeCursor form cursor) answer.2) := by
  subst ha
  exact congrArg Host.Outcome.next (hostCommand_onCursor hs hn rfl)

/-! ### OPEN CURSOR by the checks of R84 -/

variable {a position chunk clearance : Nat} {preference : CopyPreference} {trim : Int} {r : ItemRecord}

theorem openCursor_in_use (h : (s.cursors.get n).state ≠ .closed) :
    s.openCursor form a position chunk clearance preference trim n = (s, ⟨.cursorState, []⟩) := by
  simp [State.openCursor, h, Response.bare]

theorem openCursor_missing (h : (s.cursors.get n).state = .closed) (hr : s.record? a = none) :
    s.openCursor form a position chunk clearance preference trim n = (s, ⟨.notFound, []⟩) := by
  simp [State.openCursor, h, hr, Response.bare]

theorem openCursor_withdrawn (h : (s.cursors.get n).state = .closed) (hr : s.record? a = some r)
    (hw : r.state = .withdrawn) : s.openCursor form a position chunk clearance preference trim n =
      (s, ⟨.withdrawn, bytesOf 3 (r.successor.getD 0)⟩) := by
  simp [State.openCursor, h, hr, hw]

theorem openCursor_restricted (h : (s.cursors.get n).state = .closed) (hr : s.record? a = some r)
    (hw : r.state ≠ .withdrawn) (hc : clearance < r.restriction) :
    s.openCursor form a position chunk clearance preference trim n = (s, ⟨.restricted, []⟩) := by
  simp [State.openCursor, h, hr, hw, hc, Response.bare]

theorem openCursor_beyond (h : (s.cursors.get n).state = .closed) (hr : s.record? a = some r)
    (hw : r.state ≠ .withdrawn) (hc : r.restriction ≤ clearance) {side : Condition}
    (hp : placeTarget (strictForm form) position r.duration = .error side) :
    s.openCursor form a position chunk clearance preference trim n =
      (s.noteCondition form side Sticky.none, ⟨.range, []⟩) := by
  simp only [State.openCursor, h, ne_eq, not_true_eq_false, if_false, hr, if_neg hw, if_neg (Nat.not_lt.2 hc), hp,
    Response.bare]

theorem openCursor_opens (h : (s.cursors.get n).state = .closed) (hr : s.record? a = some r)
    (hw : r.state ≠ .withdrawn) (hc : r.restriction ≤ clearance) {pl : Placing}
    (hp : placeTarget (strictForm form) position r.duration = .ok pl) {w : Walk} {c : Cursor}
    (walk : w = buildPath (s.view clearance) a pl.position)
    (opened : c = (openedContext a pl.position (if chunk = 0 then s.settings.defaultChunk else chunk) clearance
      preference trim).placed w r.duration) :
    s.openCursor form a position chunk clearance preference trim n =
      (((stopRaised (s.setCursor n c) n w.stop).noteCondition form pl.condition
        (Sticky.ofPosition pl.clamped)).settleAndProceed, openAnswer c) := by
  subst walk opened
  simp only [State.openCursor, h, ne_eq, not_true_eq_false, if_false, hr, if_neg hw, if_neg (Nat.not_lt.2 hc), hp,
    raiseStop_eq_stopRaised]

/-! ### SEEK and the loops by the checks of R86 to R88 -/

theorem seek_in_state {kind : Byte} {value : BitVec 40}
    (h : (s.cursors.get n).state = .closed ∨ (s.cursors.get n).state = .detached) :
    s.seek form kind value n = (s, ⟨.cursorState, []⟩) := by
  simp only [State.seek, if_pos h, Response.bare]

theorem setLoop_in_state {start length : Nat}
    (h : (s.cursors.get n).state = .closed ∨ (s.cursors.get n).state = .detached) :
    s.setLoop form start length n = (s, ⟨.cursorState, []⟩) := by
  simp only [State.setLoop, if_pos h, Response.bare]

theorem clearLoop_in_state (h : (s.cursors.get n).state = .closed ∨ (s.cursors.get n).state = .detached) :
    s.clearLoop n = (s, ⟨.cursorState, []⟩) := by
  simp only [State.clearLoop, if_pos h, Response.bare]

theorem clearLoop_clears (h : ¬((s.cursors.get n).state = .closed ∨ (s.cursors.get n).state = .detached)) :
    s.clearLoop n = (s.setCursor n { s.cursors.get n with loop := none }, ⟨.ok, []⟩) := by
  simp only [State.clearLoop, if_neg h, Response.bare]

theorem setLoop_missing {start length : Nat}
    (h : ¬((s.cursors.get n).state = .closed ∨ (s.cursors.get n).state = .detached))
    (hr : s.record? (s.cursors.get n).top = none) :
    s.setLoop form start length n = (s, ⟨.notFound, []⟩) := by
  simp only [State.setLoop, if_neg h, hr, Response.bare]

theorem setLoop_refused {start length : Nat} {side : Condition}
    (h : ¬((s.cursors.get n).state = .closed ∨ (s.cursors.get n).state = .detached))
    (hr : s.record? (s.cursors.get n).top = some r)
    (hp : placeLoop (strictForm form) start length r.duration = .error side) :
    s.setLoop form start length n = (s.noteCondition form side Sticky.none, ⟨.range, []⟩) := by
  simp only [State.setLoop, if_neg h, hr, hp, Response.bare]

theorem setLoop_sets {start length : Nat} {pl : LoopPlacing}
    (h : ¬((s.cursors.get n).state = .closed ∨ (s.cursors.get n).state = .detached))
    (hr : s.record? (s.cursors.get n).top = some r)
    (hp : placeLoop (strictForm form) start length r.duration = .ok pl) :
    s.setLoop form start length n =
      ((s.setCursor n { s.cursors.get n with loop := some pl.region }).noteCondition form
        (if pl.clamped then .above else .within) (Sticky.ofPosition pl.clamped),
      ⟨.ok, bytesOf 5 pl.region.start ++ bytesOf 5 pl.region.stop⟩) := by
  simp only [State.setLoop, if_neg h, hr, hp]

theorem placeLoop_short {strict : Bool} {start length duration : Nat}
    (h : length < 10000 ∨ duration < 10000) : placeLoop strict start length duration = .error .none :=
  if_pos h

theorem placeLoop_strict {start length duration : Nat} (h1 : 10000 ≤ length) (h2 : 10000 ≤ duration)
    (h : duration < start + length) : placeLoop true start length duration = .error .above := by
  simp [placeLoop, Config.minSpan, h, Nat.not_lt.2 h1, Nat.not_lt.2 h2]

/-- An accepted region, which the strict form takes as asked and the plain form clamps. -/
theorem placeLoop_accepted {strict : Bool} {start length duration : Nat} (h1 : 10000 ≤ length)
    (h2 : 10000 ≤ duration) (h : strict = false ∨ start + length ≤ duration) :
    placeLoop strict start length duration =
      .ok ⟨⟨min start (duration - 10000), min (min start (duration - 10000) + length) duration⟩,
        decide (min start (duration - 10000) < start ∨ duration < min start (duration - 10000) + length)⟩ := by
  have long : ¬(length < Config.minSpan ∨ duration < Config.minSpan) := by
    simp only [Config.minSpan]; omega
  rw [placeLoop, if_neg long]
  cases strict
  · have moved : (min start (duration - 10000) ≠ start) = (min start (duration - 10000) < start) :=
      propext ⟨fun h => by omega, fun h => by omega⟩
    simp only [Bool.false_eq_true, if_false, Config.minSpan, moved]
  · have fits : start + length ≤ duration := h.resolve_left (by simp)
    have low : min start (duration - 10000) = start := by omega
    rw [if_pos rfl, if_neg (by omega), low, min_eq_left fits]
    simp [fits]

end

/-- Settles O30: the region set as R59 places it, or removed. -/
theorem loopsSet : Obligations.LoopsSet := by
  unfold Obligations.LoopsSet
  intro form cursor start length s n hs hn closed detached
  have state : ¬((s.cursors.get n).state = .closed ∨ (s.cursors.get n).state = .detached) :=
    not_or.2 ⟨closed, detached⟩
  refine ⟨exec_clearLoop hs hn (clearLoop_clears state),
    fun r hr h1 h2 hl hd => ⟨fun strict beyond => ?_, fun within => ?_⟩⟩
  · refine exec_setLoop hs hn h1 h2 (setLoop_refused state hr ?_)
    rw [strict, placeLoop_strict hl hd beyond]
  · refine ⟨_, _, rfl, rfl, by omega, by omega, ?_⟩
    rw [exec_setLoop hs hn h1 h2 (setLoop_sets state hr (placeLoop_accepted hl hd within))]
    simp only [decide_eq_true_eq]

/-- Settles O31: the checks in their order. -/
theorem cursorCommandsRefused : Obligations.CursorCommandsRefused := by
  unfold Obligations.CursorCommandsRefused
  rintro form cursor s hs refused rfl
  have malformed : ∀ {i : Instr} {inRange : Bool} {body : Fin 16 → State → State × Response},
      15 < cursor.toNat ∨ inRange = false →
      Host.Outcome.next (hostCommand i (onCursor cursor inRange body) s) =
        (.next (s.respond i ⟨.malformed, [0x14, 0x41]⟩) : Host.Outcome State Fault Refusal) :=
    fun h => congrArg Host.Outcome.next (hostCommand_onCursor_malformed hs h)
  refine ⟨fun h => ⟨malformed (.inl h), malformed (.inl h), malformed (.inl h)⟩, ?_, fun kind value =>
    ⟨fun h => malformed ?_, fun n hn hk hv h => ?_⟩, fun start length => ⟨fun h => malformed ?_,
    fun n hn h1 h2 => ⟨fun h => ⟨?_, ?_⟩, fun closed detached => ⟨fun none => ?_, fun r hr short => ?_⟩⟩⟩⟩
  · rintro accession position chunk clearance preference trim i rfl
    refine ⟨fun h => malformed (h.imp_right openInRange_eq_false), fun n hn range => ⟨fun used => ?_,
      fun closed => ⟨fun none => ?_, fun r hr => ⟨fun withdrawn => ?_, fun present low => ?_,
        fun present admitted strict beyond => ?_⟩⟩⟩⟩
    · exact exec_openCursor hs hn range (openCursor_in_use used)
    · exact exec_openCursor hs hn range (openCursor_missing closed none)
    · exact exec_openCursor hs hn range (openCursor_withdrawn closed hr withdrawn)
    · exact exec_openCursor hs hn range (openCursor_restricted closed hr present low)
    · exact exec_openCursor hs hn range
        (openCursor_beyond closed hr present admitted (strict ▸ placeTarget_strict beyond))
  · refine h.imp_right fun h => ?_
    rw [← Bool.not_eq_true, seekInRange_iff]
    rintro ⟨h1, h2⟩
    rcases h with h | ⟨h, hv⟩
    · omega
    · have := h2 h
      omega
  · exact exec_seek hs hn (seekInRange_iff.2 ⟨hk, hv⟩) (seek_in_state h)
  · refine h.imp_right fun h => decide_eq_false fun ⟨h1, h2⟩ => ?_
    simp only [Config.maxPosition] at h1 h2
    omega
  · exact exec_setLoop hs hn h1 h2 (setLoop_in_state h)
  · exact exec_clearLoop hs hn (clearLoop_in_state h)
  · exact exec_setLoop hs hn h1 h2 (setLoop_missing (not_or.2 ⟨closed, detached⟩) none)
  · exact exec_setLoop hs hn h1 h2
      (setLoop_refused (not_or.2 ⟨closed, detached⟩) hr (placeLoop_short short))

end Sys2Proof.Machine
end

section
/-! SUPPORT. OPEN CURSOR, SEEK and CLOSE CURSOR carried out, and the use counts after each cursor command
(sections 4.5, 5.2, 5.3 and 5.8). -/

namespace Sys2Proof.Machine

/-! ### A cursor landed on a path -/

section
variable {c : Cursor} {w : Walk} {duration : Nat}

theorem placed_of_path (h : w.stop = none) : (c.placed w duration).path = w.path ∧
    (c.placed w duration).fault = none ∧
    (c.placed w duration).state = if c.position = duration then .ended
      else if c.yieldFlag || w.yielded then .yielding else .open := by
  simp only [Cursor.placed, Cursor.landed, h, Cursor.playing]
  exact ⟨trivial, trivial, trivial⟩

theorem placed_of_fault {code : FaultCode} (h : w.stop = some (.fault code)) :
    (c.placed w duration).state = .faulted ∧ (c.placed w duration).path = [] ∧
      (c.placed w duration).fault = some code := by
  simp [Cursor.placed, Cursor.landed, h, Cursor.faultedWith]

theorem placed_of_detach (h : w.stop = some .detached) : (c.placed w duration).state = .detached ∧
    (c.placed w duration).path = [] ∧ (c.placed w duration).fault = none := by
  simp [Cursor.placed, Cursor.landed, h, Cursor.detachedNow]

/-- What a placing does not touch, with no last copy and no wrap pending. -/
theorem placed_rest (hl : c.lastCopy = none) (hp : c.pendingWrap = false) :
    (c.placed w duration).top = c.top ∧ (c.placed w duration).chunk = c.chunk ∧
      (c.placed w duration).clearance = c.clearance ∧ (c.placed w duration).preference = c.preference ∧
      (c.placed w duration).trim = c.trim ∧ (c.placed w duration).position = c.position ∧
      (c.placed w duration).sequence = c.sequence ∧ (c.placed w duration).loop = c.loop ∧
      (c.placed w duration).lastCopy = none ∧ (c.placed w duration).pendingWrap = false ∧
      (c.placed w duration).clampNote = c.clampNote ∧
      (c.placed w duration).yieldFlag = (c.yieldFlag || w.yielded) := by
  cases h : w.stop with
  | none => simp [Cursor.placed, Cursor.landed, h, hl, hp]
  | some stop =>
    cases stop <;> simp [Cursor.placed, Cursor.landed, h, Cursor.faultedWith, Cursor.detachedNow, hp]

end

/-! ### OPEN CURSOR (R85) -/

theorem conditionOf_natCast (position duration : Nat) :
    conditionOf position duration = if duration ≤ position then .above else .within := by
  have low : ¬((position : Int) < 0) := by omega
  simp [conditionOf]

/-- An accepted OPEN CURSOR leaves the cursor placed, and settles the path work. -/
theorem exec_openCursor_opens {form cursor : Byte} {accession : BitVec 24} {position : BitVec 40}
    {chunk : BitVec 24} {clearance preference : Byte} {trim : BitVec 16} {s : State} {n : Fin 16} {r : ItemRecord}
    {choice : CopyPreference} {p : Nat} {w : Walk} {c : Cursor} (hs : s.ready) (hn : cursor.toNat = n.val)
    (range : openInRange position chunk clearance preference trim = true)
    (hc : CopyPreference.ofByte preference = some choice) (closed : (s.cursors.get n).state = .closed)
    (hr : s.record? accession.toNat = some r) (present : r.state ≠ .withdrawn)
    (admitted : r.restriction ≤ clearance.toNat)
    (within : strictForm form = false ∨ position.toNat ≤ r.duration) (hp : p = min position.toNat r.duration)
    (walk : w = buildPath (s.view clearance.toNat) accession.toNat p)
    (opened : c = (openedContext accession.toNat p
      (if chunk = 0#24 then s.settings.defaultChunk else chunk.toNat) clearance.toNat choice trim.toInt).placed w
      r.duration) :
    exec (.openCursor form cursor accession position chunk clearance preference trim) s = .next
      (((stopRaised (s.setCursor n c) n w.stop).noteCondition form (conditionOf position.toNat r.duration)
        (Sticky.ofPosition (decide (r.duration < position.toNat)))).settleAndProceed.respond
        (.openCursor form cursor accession position chunk clearance preference trim) (openAnswer c)) := by
  have placing := placeTarget_within within
  rw [← conditionOf_natCast, ← hp] at placing
  have chunk0 : (chunk.toNat = 0) = (chunk = 0#24) :=
    propext ⟨fun h => BitVec.eq_of_toNat_eq h, fun h => h ▸ rfl⟩
  refine exec_openCursor hs hn range (openCursor_opens closed hr present admitted placing walk ?_)
  simp only [hc, Option.getD_some, chunk0]
  exact opened

/-- Settles O28: the context set and its path built, and what follows. -/
theorem openCursorSets : Obligations.OpenCursorSets := by
  unfold Obligations.OpenCursorSets
  intro form cursor accession position chunk clearance preference trim s n r choice hs hn range hc closed hr
    present admitted within p w c hp walk opened
  have run := exec_openCursor_opens hs hn range hc closed hr present admitted within hp walk opened
  generalize hx : openedContext accession.toNat p (if chunk = 0#24 then s.settings.defaultChunk else chunk.toNat)
    clearance.toNat choice trim.toInt = x at opened
  obtain ⟨top, chunked, cleared, preferred, trimmed, positioned, sequence, loop, copy, wrap, clamp, yield⟩ :=
    placed_rest (c := x) (w := w) (duration := r.duration) (hx ▸ rfl) (hx ▸ rfl)
  rw [← opened] at top chunked cleared preferred trimmed positioned sequence loop copy wrap clamp yield
  subst hx
  refine ⟨⟨_, by rw [run, openAnswer, positioned]; rfl, pathWorkEnds_settleAndProceed _⟩, top, chunked, cleared,
    preferred, CopyPreference.ofByte_eq hc, trimmed, positioned, sequence, loop, copy, wrap, clamp, fun h => ?_,
    fun code h => ?_, fun h => ?_, yield⟩
  · rw [opened]; exact placed_of_path h
  · rw [opened]; exact placed_of_fault h
  · rw [opened]; exact placed_of_detach h

/-! ### SEEK (R86, R87) -/

theorem placeTarget_seek {strict : Bool} {target : Int} {duration : Nat}
    (h : strict = false ∨ (0 ≤ target ∧ target ≤ duration)) : placeTarget strict target duration =
      .ok ⟨clampTo target duration, decide (target < 0 ∨ (duration : Int) < target),
        conditionOf target duration⟩ := by
  unfold placeTarget clampTo conditionOf
  by_cases low : target < 0
  · have plain : strict = false := h.resolve_right (by omega)
    simp [low, plain]
  by_cases high : (duration : Int) < target
  · have plain : strict = false := h.resolve_right (by omega)
    simp [low, high, plain, high.le]
  · by_cases top : target = duration
    · simp [top, show ¬(duration : Int) < 0 by omega]
    · simp [low, high, top, show ¬(duration : Int) ≤ target by omega]

theorem placeTarget_outside {target : Int} {duration : Nat} (h : target < 0 ∨ (duration : Int) < target) :
    placeTarget true target duration = .error (if target < 0 then .below else .above) := by
  unfold placeTarget
  by_cases low : target < 0
  · simp [low]
  · simp [low, h.resolve_left low]

/-- A target is one for every position, or for none. -/
theorem seekInRange_of_target {kind : Byte} {value : BitVec 40} {position : Nat} {target : Int}
    (h : seekTarget kind value position = some target) : seekInRange kind value = true := by
  unfold seekInRange
  unfold seekTarget at h ⊢
  split at h <;> simp_all

section
variable {s : State} {form kind : Byte} {value : BitVec 40} {n : Fin 16} {target : Int} {w : Walk} {c : Cursor}

theorem seek_missing (h : ¬((s.cursors.get n).state = .closed ∨ (s.cursors.get n).state = .detached))
    (hr : s.record? (s.cursors.get n).top = none) (hc : c = { s.cursors.get n with
      state := .faulted, path := [], fault := some .missingTarget, pendingWrap := false,
      clampNote := false, lastCopy := none }) : s.seek form kind value n =
      ((((s.setCursor n c).raise (.cursorFaulted n)).noteCondition form .none Sticky.none).settleAndProceed,
        seekAnswer c) := by
  have walk : buildPath (s.view (s.cursors.get n).clearance) (s.cursors.get n).top (s.cursors.get n).position =
      ⟨[], false, some (.fault .missingTarget)⟩ := by
    have none : findRecord (s.view (s.cursors.get n).clearance).records (s.cursors.get n).top = none := hr
    simp only [buildPath, none, Walk.faulted]
  have landed : ((s.cursors.get n).sought (s.cursors.get n).position).landed
      ⟨[], false, some (.fault .missingTarget)⟩ = c := by
    simp [hc, Cursor.landed, Cursor.sought, Cursor.faultedWith]
  simp only [State.seek, if_neg h, hr, walk, landed]
  rfl

theorem seek_outside {r : ItemRecord}
    (h : ¬((s.cursors.get n).state = .closed ∨ (s.cursors.get n).state = .detached))
    (hr : s.record? (s.cursors.get n).top = some r)
    (ht : seekTarget kind value (s.cursors.get n).position = some target) {side : Condition}
    (hp : placeTarget (strictForm form) target r.duration = .error side) :
    s.seek form kind value n = (s.noteCondition form side Sticky.none, ⟨.range, []⟩) := by
  simp only [State.seek, if_neg h, hr, ht, Option.getD_some, hp, Response.bare]

theorem seek_moves {r : ItemRecord}
    (h : ¬((s.cursors.get n).state = .closed ∨ (s.cursors.get n).state = .detached))
    (hr : s.record? (s.cursors.get n).top = some r)
    (ht : seekTarget kind value (s.cursors.get n).position = some target) {pl : Placing}
    (hp : placeTarget (strictForm form) target r.duration = .ok pl)
    (walk : w = buildPath (s.view (s.cursors.get n).clearance) (s.cursors.get n).top pl.position)
    (moved : c = ((s.cursors.get n).sought pl.position).placed w r.duration) :
    s.seek form kind value n =
      (((stopRaised (s.setCursor n c) n w.stop).noteCondition form pl.condition
        (Sticky.ofPosition pl.clamped)).settleAndProceed, seekAnswer c) := by
  subst walk moved
  simp only [State.seek, if_neg h, hr, ht, Option.getD_some, hp, raiseStop_eq_stopRaised]

end

/-- Settles O29: the target placed and the path built anew, and what follows. -/
theorem seekMoves : Obligations.SeekMoves := by
  unfold Obligations.SeekMoves
  refine ⟨fun form cursor kind value s n target c hs hn closed detached hr ht hc => ?_,
    fun form cursor kind value s n r target hs hn closed detached hr ht =>
      ⟨fun strict outside => ?_, fun within w c walk moved => ?_⟩⟩
  · refine ⟨_, ?_, pathWorkEnds_settleAndProceed _⟩
    refine (exec_seek hs hn (seekInRange_of_target ht) (seek_missing (not_or.2 ⟨closed, detached⟩) hr hc)).trans ?_
    rw [seekAnswer, hc]
    rfl
  · exact exec_seek hs hn (seekInRange_of_target ht) (seek_outside (not_or.2 ⟨closed, detached⟩) hr ht
      (by rw [strict, placeTarget_outside outside]))
  · have run := exec_seek hs hn (seekInRange_of_target ht) (seek_moves (not_or.2 ⟨closed, detached⟩) hr ht
      (placeTarget_seek within) walk moved)
    obtain ⟨-, -, -, -, -, positioned, -, -, -, -, -, yield⟩ := placed_rest
      (c := (s.cursors.get n).sought (clampTo target r.duration)) (w := w) (duration := r.duration) rfl rfl
    have moved' : c = ((s.cursors.get n).sought (clampTo target r.duration)).placed w r.duration := moved
    rw [← moved'] at positioned yield
    refine ⟨⟨_, by rw [run, seekAnswer, positioned]; rfl, pathWorkEnds_settleAndProceed _⟩, yield, fun h => ?_,
      fun code h => ?_, fun h => ?_⟩
    · rw [yield, moved']; exact placed_of_path h
    · rw [moved']; exact placed_of_fault h
    · rw [moved']; exact placed_of_detach h

end Sys2Proof.Machine
end

section
/-! SUPPORT. CLOSE CURSOR, and the use counts after each cursor command (sections 4.5 and 5.8). -/

namespace Sys2Proof.Machine

/-! ### Settled counts at the end of a command (R4, R72) -/

/-- Every use count is the number of path frames that name its record. -/
def State.counted (s : State) : Prop :=
  ∀ e ∈ s.index.entries, e.useCount = framesNaming s.cursors e.accession

section
variable {s : State}

theorem counted_settleCounts (s : State) : s.settleCounts.counted := s.settleCounts_counts

theorem counted_reachStages (a : Nat) (h : s.counted) : (s.reachStages a).counted := by
  rcases s.reachStages_cases (P := fun _ => True) (fun _ _ _ _ _ _ => trivial) a trivial with e | ⟨t, -, e⟩
  · rw [e]; exact h
  · rw [e]; exact counted_settleCounts t

theorem counted_proceed (h : s.counted) : s.proceed.counted :=
  State.proceed_keeps (P := State.counted)
    (fun t e o counts _ _ _ => by
      simpa [State.counted, State.lateFailure, State.removeEntry] using Index.counts_setPending counts)
    (fun _ _ counts _ _ _ => counts) h

/-- Path work leaves the counts settled. -/
theorem counted_settleAndProceed (s : State) : s.settleAndProceed.counted :=
  counted_proceed (foldl_keeps (P := State.counted) (fun _ a h => counted_reachStages a h) _
    (counted_settleCounts s))

variable {n : Fin 16}

/-- A cursor command answered OK has settled its path work. -/
theorem openCursor_counted {form : Byte} {a position chunk clearance : Nat} {preference : CopyPreference}
    {trim : Int} (h : (s.openCursor form a position chunk clearance preference trim n).2.result = .ok) :
    (s.openCursor form a position chunk clearance preference trim n).1.counted := by
  unfold State.openCursor at h ⊢
  by_cases closed : (s.cursors.get n).state ≠ .closed
  · simp [if_pos closed, Response.bare] at h
  rw [if_neg closed] at h ⊢
  cases hr : s.record? a with
  | none => simp [hr, Response.bare] at h
  | some r =>
    simp only [hr] at h ⊢
    by_cases hw : r.state = .withdrawn
    · simp [if_pos hw] at h
    rw [if_neg hw] at h ⊢
    by_cases hc : clearance < r.restriction
    · simp [if_pos hc, Response.bare] at h
    rw [if_neg hc] at h ⊢
    cases hp : placeTarget (strictForm form) position r.duration with
    | error side => simp [hp, Response.bare] at h
    | ok pl => exact counted_settleAndProceed _

theorem seek_counted {form kind : Byte} {value : BitVec 40} (h : (s.seek form kind value n).2.result = .ok) :
    (s.seek form kind value n).1.counted := by
  unfold State.seek at h ⊢
  dsimp only at h ⊢
  by_cases state : (s.cursors.get n).state = .closed ∨ (s.cursors.get n).state = .detached
  · simp [if_pos state, Response.bare] at h
  rw [if_neg state] at h ⊢
  cases hr : s.record? (s.cursors.get n).top with
  | none => exact counted_settleAndProceed _
  | some r =>
    simp only [hr] at h ⊢
    cases hp : placeTarget (strictForm form) ((seekTarget kind value (s.cursors.get n).position).getD 0)
        r.duration with
    | error side => simp [hp, Response.bare] at h
    | ok pl => exact counted_settleAndProceed _

theorem fetch_counted {form : Byte} (h : (s.fetch form n).2.result = .ok) : (s.fetch form n).1.counted := by
  unfold State.fetch at h ⊢
  dsimp only at h ⊢
  by_cases closed : (s.cursors.get n).state = .closed
  · simp [if_pos closed, Response.bare] at h
  rw [if_neg closed]
  exact counted_settleAndProceed _

theorem closeCursor_counted (h : (s.closeCursor n).2.result = .ok) : (s.closeCursor n).1.counted := by
  unfold State.closeCursor at h ⊢
  by_cases closed : (s.cursors.get n).state = .closed
  · simp [if_pos closed, Response.bare] at h
  rw [if_neg closed]
  exact counted_settleAndProceed _

theorem onCursor_counted {cursor : Byte} {inRange : Bool} {body : Fin 16 → State → State × Response}
    (hb : ∀ n, (body n s).2.result = .ok → (body n s).1.counted)
    (h : (onCursor cursor inRange body s).2.result = .ok) : (onCursor cursor inRange body s).1.counted := by
  unfold onCursor at h ⊢
  cases hc : cursorOf cursor with
  | none => simp [hc, Response.malformedArguments, Response.malformed] at h
  | some n =>
    simp only [hc] at h ⊢
    cases inRange
    · simp [Response.malformedArguments, Response.malformed] at h
    · exact hb n h

end

/-- The result code is the first byte of a response. -/
theorem result_of_hasAnswered {s : State} {i : Instr} {r r' : Response}
    (h : (s.respond i r).hasAnswered i r') : r.result.byte = r'.result.byte := by
  have frame := h.symm.trans (respond_hasAnswered s i r)
  have bytes : r'.bytes = r.bytes := by simpa using frame
  exact (List.cons.inj bytes).1.symm

theorem result_eq_ok {c : ResultCode} (h : c.byte = ResultCode.ok.byte) : c = .ok := by
  revert h
  cases c <;> decide

/-- Settles O38: a cursor command answered OK has settled its path work. -/
theorem useCountsSettle : Obligations.UseCountsSettle := by
  unfold Obligations.UseCountsSettle
  intro i s t data hi hs ht answered
  have settled : ∀ {effect : State → State × Response},
      ((effect s).2.result = .ok → (effect s).1.counted) →
      (∀ s, exec i s = .next (hostCommand i effect s)) → t.counted := fun {effect} counted he => by
    rw [he, hostCommand_ready hs] at ht
    cases ht
    exact counted (result_eq_ok (result_of_hasAnswered answered))
  rcases hi with ⟨form, cursor, accession, position, chunk, clearance, preference, trim, rfl⟩ |
    ⟨form, cursor, kind, value, rfl⟩ | ⟨form, cursor, rfl⟩ | ⟨form, cursor, rfl⟩
  · exact settled (onCursor_counted fun n => openCursor_counted) fun s => rfl
  · exact settled (onCursor_counted fun n => seek_counted) fun s => rfl
  · exact settled (onCursor_counted fun n => fetch_counted) fun s => rfl
  · exact settled (onCursor_counted fun n => closeCursor_counted) fun s => rfl

/-! ### CLOSE CURSOR (R104) -/

/-- The three cursor masks hold every bit they held. -/
def Notices.keepsMasks (n m : Notices) : Prop :=
  ∀ k, (n.cursorStalled.getLsbD k = true → m.cursorStalled.getLsbD k = true) ∧
    (n.cursorDetached.getLsbD k = true → m.cursorDetached.getLsbD k = true) ∧
    (n.cursorFaulted.getLsbD k = true → m.cursorFaulted.getLsbD k = true)

section
variable {n : Notices}

theorem Notices.keepsMasks_raised {m : Notices} (x : Notice) (enables : BitVec 10) (h : n.keepsMasks m) :
    n.keepsMasks ((m.record x).testLatch enables) := by
  intro k
  obtain ⟨stalled, detached, faulted⟩ := h k
  cases x <;> simp only [Notices.testLatch_cursorStalled, Notices.testLatch_cursorDetached,
    Notices.testLatch_cursorFaulted, Notices.record, BitVec.getLsbD_or, Bool.or_eq_true]
  case cursorStalled => exact ⟨fun h => .inl (stalled h), detached, faulted⟩
  case cursorDetached => exact ⟨stalled, fun h => .inl (detached h), faulted⟩
  case cursorFaulted => exact ⟨stalled, detached, fun h => .inl (faulted h)⟩
  all_goals exact ⟨stalled, detached, faulted⟩

variable {s : State} {a : Nat}

theorem keepsMasks_act (x : Action) (h : n.keepsMasks s.notices) : n.keepsMasks (s.act a x).notices := by
  have raised : n.keepsMasks (s.raise .changeStage).notices := Notices.keepsMasks_raised _ _ h
  cases x with
  | none => exact h
  | notify => exact raised
  | yield => exact raised
  | detach =>
    simp only [State.act, State.detachAll_eq]
    refine foldl_keeps (P := fun m : Notices => n.keepsMasks m) (fun m c hm => ?_) _ raised
    split
    · exact Notices.keepsMasks_raised _ _ hm
    · exact hm

theorem keepsMasks_settleAndProceed (h : n.keepsMasks s.notices) : n.keepsMasks s.settleAndProceed.notices :=
  State.proceed_keeps (P := fun t => n.keepsMasks t.notices)
    (fun t e o ht _ _ _ => by
      simpa [State.lateFailure, State.removeEntry] using Notices.keepsMasks_raised _ _ ht)
    (fun t e ht _ _ _ => ht)
    (State.settle_keeps (P := fun t => n.keepsMasks t.notices)
      (fun t a k ht _ _ => by rw [takeStage_act]; exact keepsMasks_act _ ht) (fun t ht => ht) h)

/-- A CLOSED cursor, which holds no path, is not reached by a stage. -/
theorem act_cursor_closed {c : Fin 16} (x : Action) (h : s.cursors.get c = Cursor.closed) :
    (s.act a x).cursors.get c = Cursor.closed := by
  have unnamed : Cursor.closed.names a = false := rfl
  cases x with
  | none => exact h
  | notify => exact h
  | yield => simp [State.act, State.yieldAll, h, unnamed]
  | detach => simp [detach_cursors, h, unnamed]

theorem settleAndProceed_cursor_closed {c : Fin 16} (h : s.cursors.get c = Cursor.closed) :
    s.settleAndProceed.cursors.get c = Cursor.closed := by
  rw [State.settleAndProceed, State.proceed_cursors]
  exact State.settle_keeps (P := fun t => t.cursors.get c = Cursor.closed)
    (fun t a k ht _ _ => by rw [takeStage_act]; exact act_cursor_closed _ ht) (fun t ht => ht) h

end

section
variable {s : State} {n : Fin 16}

theorem closeCursor_closed (h : (s.cursors.get n).state = .closed) :
    s.closeCursor n = (s, ⟨.cursorState, []⟩) := by
  simp only [State.closeCursor, if_pos h, Response.bare]

theorem closeCursor_closes (h : (s.cursors.get n).state ≠ .closed) :
    s.closeCursor n = ((s.setCursor n Cursor.closed).settleAndProceed, ⟨.ok, []⟩) := by
  simp only [State.closeCursor, if_neg h, Response.bare]

theorem pathsWithin_closed (t : Table Cursor 16) (n : Fin 16) : pathsWithin t (t.set n Cursor.closed) := fun m => by
  rw [Table.get_set]
  split
  · exact .inr rfl
  · exact .inl rfl

/-- Closing a cursor frees items and takes none up, so no entry comes back to WAITING. -/
theorem closed_settle (free : ∀ e ∈ s.queue, e.state = .ready → framesNaming s.cursors e.accession = 0) :
    (s.setCursor n Cursor.closed).settle = (s.setCursor n Cursor.closed).settleCounts ∧
      ∀ e ∈ s.queue, e.state = .ready →
        framesNaming (s.cursors.set n Cursor.closed) e.accession = 0 := by
  have still : ∀ e ∈ s.queue, e.state = .ready →
      framesNaming (s.cursors.set n Cursor.closed) e.accession = 0 := fun e he hr =>
    (pathsWithin_closed s.cursors n).framesNaming_eq_zero (free e he hr)
  have none : (s.setCursor n Cursor.closed).reentering = [] := by
    simp only [State.reentering, State.setCursor_queue, State.setCursor_cursors, List.map_eq_nil_iff,
      List.filter_eq_nil_iff, Bool.and_eq_true, beq_iff_eq, not_and]
    intro e he hr
    simp [still e he hr]
  exact ⟨by rw [State.settle, none]; rfl, still⟩

end

/-- Settles O37: the context cleared, the notices kept, and the entries it frees moved on. -/
theorem closeCursorClears : Obligations.CloseCursorClears := by
  unfold Obligations.CloseCursorClears
  intro form cursor s n hs hn
  refine ⟨fun closed => ?_, fun closed => ?_⟩
  · exact exec_closeCursor hs hn (closeCursor_closed closed)
  have run := exec_closeCursor (form := form) hs hn (closeCursor_closes closed)
  refine ⟨⟨_, run, respond_hasAnswered .., ?_, ?_⟩, fun free cursors u hc hu => ⟨u.proceed, rfl, ?_, fun empty => ?_⟩⟩
  · exact settleAndProceed_cursor_closed (s := s.setCursor n Cursor.closed) (Table.get_set_self ..)
  · exact keepsMasks_settleAndProceed (s := s.setCursor n Cursor.closed) fun k => ⟨id, id, id⟩
  · obtain ⟨settle, still⟩ := closed_settle (n := n) free
    have counts : (s.setCursor n Cursor.closed).settleCounts = u := by
      rw [settleCounts_written, hu, hc]
      refine congrArg (State.withQueue _) (List.map_congr_left fun e he => ?_)
      rw [State.setCursor_cursors, if_neg (c := e.state = .ready ∧ _) (fun h => by
        have := still e he h.1
        omega)]
    rw [run, State.settleAndProceed, settle, counts]
  · refine State.proceed_of_none fun _ => ?_
    simp [hu, State.readyCount, empty]

end Sys2Proof.Machine
end

section
/-! SUPPORT. A FETCH by the cursor's state, its path, and the leaf it stands in (section 5.5). -/

namespace Sys2Proof.Machine

/-! ### The span of a FETCH (R46 to R48) -/

theorem foldl_min_mem (l : List Nat) (x : Nat) : l.foldl min x ∈ x :: l := by
  induction l generalizing x with
  | nil => simp
  | cons y rest ih =>
    rw [List.foldl_cons]
    rcases List.mem_cons.1 (ih (min x y)) with h | h
    · rw [h]
      rcases Nat.le_total x y with hxy | hxy
      · simp [min_eq_left hxy]
      · simp [min_eq_right hxy]
    · simp [h]

theorem foldl_min_le (l : List Nat) (x : Nat) : ∀ y ∈ x :: l, l.foldl min x ≤ y := by
  induction l generalizing x with
  | nil => simp
  | cons z rest ih =>
    intro y hy
    have least : rest.foldl min (min x z) ≤ min x z := ih _ _ List.mem_cons_self
    rw [List.foldl_cons]
    rcases List.mem_cons.1 hy with rfl | hy
    · omega
    · rcases List.mem_cons.1 hy with rfl | hy
      · omega
      · exact ih _ _ (List.mem_cons_of_mem _ hy)

/-- The span end is the least of its candidates. -/
theorem spanEnd_least (c : Cursor) (records : List ItemRecord) (duration : Nat) {candidates : List Nat}
    (hc : candidates = [c.position + c.chunk, duration]
        ++ ((c.loop.filter fun l => decide (l.stop ≤ duration ∧ c.position < l.stop)).toList.map (·.stop))
        ++ c.path.filterMap (fun f => (f.segmentIn records).map
          fun g => ((g.start + g.length : Nat) + f.displacement).toNat)) :
    c.spanEnd records duration ∈ candidates ∧ ∀ x ∈ candidates, c.spanEnd records duration ≤ x := by
  obtain ⟨rest, hrest⟩ : ∃ rest, rest = (c.applyingLoop duration).toList.map (·.stop) ++
    segmentEnds records c.path := ⟨_, rfl⟩
  have split : candidates = (c.position + c.chunk) :: duration :: rest := by rw [hc, hrest]; rfl
  have folded : c.spanEnd records duration = rest.foldl min (min (c.position + c.chunk) duration) := by
    rw [hrest]; rfl
  rw [split, folded]
  rw [show rest.foldl min (min (c.position + c.chunk) duration) =
    (duration :: rest).foldl min (c.position + c.chunk) from rfl]
  exact ⟨foldl_min_mem _ _, foldl_min_le _ _⟩

/-! ### A FETCH by state and path (R89 to R92) -/

section
variable {c : Cursor} {v : PathView} {volumes : Table Volume 64} {n : Fin 16} {rebuilt : Bool} {r : ItemRecord}

theorem fetched_of_detached (h : c.state = .detached) : c.fetched v volumes n =
    ⟨c, { c.stoppedDescriptor n false .detached with fault := none }, none, false, 0⟩ := by
  rw [Cursor.fetched, if_pos h]

theorem fetched_of_faulted (h : c.state = .faulted) : c.fetched v volumes n =
    ⟨c, c.stoppedDescriptor n false .faulted, none, false, 0⟩ := by
  rw [Cursor.fetched, if_neg (by simp [h]), if_pos h]

theorem fetched_of_current (hd : c.state ≠ .detached) (hf : c.state ≠ .faulted)
    (h : pathCurrent v.records c.path = true) : c.fetched v volumes n = c.fetchCurrent v volumes n false := by
  rw [Cursor.fetched, if_neg hd, if_neg hf, if_pos h]

/-- A path built anew, and the FETCH carried on along it. -/
theorem fetched_of_rebuilt (hd : c.state ≠ .detached) (hf : c.state ≠ .faulted)
    (h : pathCurrent v.records c.path = false) {w : Walk} (hw : w = buildPath v c.top c.position)
    (stop : w.stop = none) : c.fetched v volumes n =
      ({ c with lastCopy := none, yieldFlag := c.yieldFlag || w.yielded, path := w.path } : Cursor).fetchCurrent v
        volumes n true := by
  subst hw
  have landed : ({ c with lastCopy := none } : Cursor).landed (buildPath v c.top c.position) =
      { c with
        lastCopy := none, yieldFlag := c.yieldFlag || (buildPath v c.top c.position).yielded
        path := (buildPath v c.top c.position).path } := by
    simp [Cursor.landed, stop]
  rw [Cursor.fetched, if_neg hd, if_neg hf, if_neg (by simp [h])]
  simp only [stop, landed]

/-- A rebuild that stopped delivers the stop. -/
theorem fetched_of_stopped (hd : c.state ≠ .detached) (hf : c.state ≠ .faulted)
    (h : pathCurrent v.records c.path = false) {w : Walk} (hw : w = buildPath v c.top c.position) {b : Cursor}
    (hb : b = ({ c with lastCopy := none } : Cursor).landed w) :
    (∀ code, w.stop = some (.fault code) →
      c.fetched v volumes n = ⟨b, b.stoppedDescriptor n true .faulted, w.stop, false, 0⟩) ∧
    (w.stop = some .detached →
      c.fetched v volumes n = ⟨b, b.stoppedDescriptor n true .detached, w.stop, false, 0⟩) := by
  subst hw hb
  refine ⟨fun code stop => ?_, fun stop => ?_⟩ <;>
    · rw [Cursor.fetched, if_neg hd, if_neg hf, if_neg (by simp [h])]
      simp only [stop]

theorem fetchCurrent_of_end (hr : findRecord v.records c.top = some r) (h : r.duration ≤ c.position) :
    c.fetchCurrent v volumes n rebuilt = c.fetchEnd n rebuilt r.duration r.segments.length := by
  simp [Cursor.fetchCurrent, hr, h]

theorem fetchCurrent_of_span (hr : findRecord v.records c.top = some r) (h : c.position < r.duration) :
    c.fetchCurrent v volumes n rebuilt = c.fetchSpan v volumes n rebuilt r.duration := by
  simp [Cursor.fetchCurrent, hr, Nat.not_le.2 h]

/-- A FETCH on a path delivers END, or the span's descriptor. -/
theorem fetchCurrent_cases (c : Cursor) (v : PathView) (volumes : Table Volume 64) (n : Fin 16) (rebuilt : Bool) :
    (∃ duration count, c.fetchCurrent v volumes n rebuilt = c.fetchEnd n rebuilt duration count) ∨
    ∃ duration, c.fetchCurrent v volumes n rebuilt = c.fetchSpan v volumes n rebuilt duration := by
  unfold Cursor.fetchCurrent
  dsimp only
  split
  · exact .inl ⟨_, _, rfl⟩
  · exact .inr ⟨_, rfl⟩

/-- Everything a FETCH can be: the stop it stands at or meets, or what it delivers on a path that is current. -/
theorem fetched_cases (c : Cursor) (v : PathView) (volumes : Table Volume 64) (n : Fin 16) :
    (c.state = .detached ∧ c.fetched v volumes n =
      ⟨c, { c.stoppedDescriptor n false .detached with fault := none }, none, false, 0⟩) ∨
    (c.state = .faulted ∧ c.fetched v volumes n = ⟨c, c.stoppedDescriptor n false .faulted, none, false, 0⟩) ∨
    (c.state ≠ .detached ∧ c.state ≠ .faulted ∧
      ((pathCurrent v.records c.path = true ∧ c.fetched v volumes n = c.fetchCurrent v volumes n false) ∨
      (pathCurrent v.records c.path = false ∧ ∃ (b : Cursor) (kind : DescriptorKind) (stop : Option Stop),
        (kind = .faulted ∨ kind = .detached) ∧ b.sequence = c.sequence ∧
          c.fetched v volumes n = ⟨b, b.stoppedDescriptor n true kind, stop, false, 0⟩) ∨
      (pathCurrent v.records c.path = false ∧ ∃ (yields : Bool) (path : List PathFrame), c.fetched v volumes n =
        ({ c with lastCopy := none, yieldFlag := yields, path := path } : Cursor).fetchCurrent v volumes n
          true))) := by
  by_cases hd : c.state = .detached
  · exact .inl ⟨hd, fetched_of_detached hd⟩
  by_cases hf : c.state = .faulted
  · exact .inr (.inl ⟨hf, fetched_of_faulted hf⟩)
  refine .inr (.inr ⟨hd, hf, ?_⟩)
  cases h : pathCurrent v.records c.path with
  | true => exact .inl ⟨rfl, fetched_of_current hd hf h⟩
  | false =>
    refine .inr ?_
    have sequence : (({ c with lastCopy := none } : Cursor).landed (buildPath v c.top c.position)).sequence =
        c.sequence := by
      rcases Cursor.landed_cases { c with lastCopy := none } (buildPath v c.top c.position) with
        ⟨-, e⟩ | ⟨code, -, e⟩ | ⟨-, e⟩ <;> rw [e]
    obtain ⟨faults, detaches⟩ := fetched_of_stopped (volumes := volumes) (n := n) hd hf h rfl rfl
    cases hs : (buildPath v c.top c.position).stop with
    | none => exact .inr ⟨rfl, _, _, fetched_of_rebuilt hd hf h rfl hs⟩
    | some stop =>
      cases stop with
      | fault code => exact .inl ⟨rfl, _, _, _, .inl rfl, sequence, faults code hs⟩
      | detached => exact .inl ⟨rfl, _, _, _, .inr rfl, sequence, detaches hs⟩

/-! ### The descriptor of a span (R49, R51 to R53, R92, R127) -/

variable {records : List ItemRecord} {f : PathFrame} {g : Segment} {t : Transfer} {stop : Nat}

theorem spanDescriptor_overhang (h : leafOf records c.path = .overhang f) :
    c.spanDescriptor records volumes stop =
      { kind := .gap, topStart := c.position, length := stop - c.position, leafAccession := f.accession,
        leafSegment := f.segment } := by
  simp only [Cursor.spanDescriptor, h]

theorem spanDescriptor_lacuna (h : leafOf records c.path = .lacuna f g) :
    c.spanDescriptor records volumes stop =
      { kind := .gap, topStart := c.position, length := stop - c.position, leafAccession := f.accession,
        leafSegment := f.segment
        segmentEnd := decide ((stop : Int) = (g.start + g.length : Nat) + f.displacement) } := by
  simp only [Cursor.spanDescriptor, h, leafEnd]
  rfl

/-- The stored index of a top position in a leaf, clamped to the stored count (R44, R45). -/
def Transfer.storedIndex (t : Transfer) (f : PathFrame) (g : Segment) (p : Nat) : Nat :=
  min (((p : Int) - f.displacement - g.start).toNat * t.rate * t.nominal / (t.speed * 1000000)) t.count

/-- The GAP of a span over a TRANSFER (R92). -/
def Cursor.spanGap (c : Cursor) (f : PathFrame) (g : Segment) (t : Transfer) (stop : Nat) : Descriptor where
  kind := .gap
  topStart := c.position
  length := stop - c.position
  leafAccession := f.accession
  leafSegment := f.segment
  indexClamped := decide (t.count < ((stop : Int) - f.displacement - g.start).toNat * t.rate * t.nominal
    / (t.speed * 1000000))
  segmentEnd := decide ((stop : Int) = (g.start + g.length : Nat) + f.displacement)

/-- The same span with stored sound and no copy to read (R93). -/
def Cursor.spanUnread (c : Cursor) (f : PathFrame) (g : Segment) (t : Transfer) (stop : Nat) (raw : Int) :
    Descriptor :=
  { c.spanGap f g t stop with
    kind := .unavailable, indexStart := t.storedIndex f g c.position
    count := t.storedIndex f g stop - t.storedIndex f g c.position
    frameBytes := t.channels * t.width, rate := t.rate, gain := max (-600) (min 120 raw)
    gainClamped := decide (120 < raw ∨ raw < -600) }

theorem spanDescriptor_silent (h : leafOf records c.path = .transfer f g t)
    (hs : t.storedIndex f g stop ≤ t.storedIndex f g c.position) :
    c.spanDescriptor records volumes stop = c.spanGap f g t stop := by
  have none : t.clampedIndex (deltaIn f g stop) - t.clampedIndex (deltaIn f g c.position) = 0 :=
    Nat.sub_eq_zero_of_le hs
  simp only [Cursor.spanDescriptor, h, if_pos none]
  rfl

theorem spanDescriptor_sound (h : leafOf records c.path = .transfer f g t)
    (hs : t.storedIndex f g c.position < t.storedIndex f g stop) :
    (t.chooseCopy volumes c.preference = none → c.spanDescriptor records volumes stop =
      c.spanUnread f g t stop (rawGain records c.trim c.path)) ∧
    ∀ copy place, t.chooseCopy volumes c.preference = some (copy, place) →
      c.spanDescriptor records volumes stop = { c.spanUnread f g t stop (rawGain records c.trim c.path) with
        kind := .audio, copy := some copy, volume := place.volume.val, file := place.file
        byteOffset := place.base + t.storedIndex f g c.position * (t.channels * t.width)
        copyChanged := decide (c.lastCopy ≠ some copy) } := by
  have some : ¬(t.clampedIndex (deltaIn f g stop) - t.clampedIndex (deltaIn f g c.position) = 0) := by
    have hs : t.clampedIndex (deltaIn f g c.position) < t.clampedIndex (deltaIn f g stop) := hs
    omega
  refine ⟨fun hc => ?_, fun copy place hc => ?_⟩ <;>
    · simp only [Cursor.spanDescriptor, h, if_neg some, hc, saturateGain_eq, gainHigh_eq, gainLow_eq]
      simp only [Cursor.spanUnread, Bool.decide_or]
      rfl

/-! ### What is delivered of it (R93, R94) -/

theorem fetchSpan_of_unavailable (duration : Nat) (h : (c.spanDescriptor v.records volumes
    (c.spanEnd v.records duration)).kind = .unavailable) : c.fetchSpan v volumes n rebuilt duration =
      ⟨{ c with state := .stalled },
        (c.spanDescriptor v.records volumes (c.spanEnd v.records duration)).stamped n c rebuilt, none,
        decide (c.state ≠ .stalled), rawGain v.records c.trim c.path⟩ := by
  unfold Cursor.fetchSpan
  exact if_pos h

theorem fetchSpan_of_delivered (duration : Nat) {d : Descriptor}
    (hd : d = c.spanDescriptor v.records volumes (c.spanEnd v.records duration)) (h : d.kind ≠ .unavailable) :
    c.fetchSpan v volumes n rebuilt duration =
      ⟨(({ c with pendingWrap := false, lastCopy := if d.kind = .audio then d.copy else c.lastCopy } :
          Cursor).moved v duration (c.spanEnd v.records duration)).1,
        { d.stamped n c rebuilt with wrapped := c.pendingWrap },
        (({ c with pendingWrap := false, lastCopy := if d.kind = .audio then d.copy else c.lastCopy } :
          Cursor).moved v duration (c.spanEnd v.records duration)).2, false, rawGain v.records c.trim c.path⟩ := by
  subst hd
  unfold Cursor.fetchSpan
  exact if_neg h

end

/-! ### FETCH answered (R89, R93) -/

section
variable {c : Cursor} {v : PathView} {volumes : Table Volume 64} {n : Fin 16} {rebuilt : Bool}

/-- A move leaves the sequence. -/
theorem moved_sequence (c : Cursor) (v : PathView) (duration stop : Nat) :
    (c.moved v duration stop).1.sequence = c.sequence := by
  have landed : ∀ (b : Cursor) (w : Walk), (b.landed w).sequence = b.sequence := fun b w => by
    rcases b.landed_cases w with ⟨-, e⟩ | ⟨code, -, e⟩ | ⟨-, e⟩ <;> rw [e]
  unfold Cursor.moved
  split
  · dsimp only
    split <;> simp [landed]
  · dsimp only
    split <;> simp [landed]

/-- What every FETCH on a path delivers. -/
theorem fetchCurrent_stamped (c : Cursor) (v : PathView) (volumes : Table Volume 64) (n : Fin 16)
    (rebuilt : Bool) : (c.fetchCurrent v volumes n rebuilt).descriptor.lead = n.val ∧
      (c.fetchCurrent v volumes n rebuilt).descriptor.sequence = c.sequence ∧
      (c.fetchCurrent v volumes n rebuilt).descriptor.rebuilt = rebuilt ∧
      (c.fetchCurrent v volumes n rebuilt).cursor.sequence = c.sequence := by
  rcases fetchCurrent_cases c v volumes n rebuilt with ⟨duration, count, e⟩ | ⟨duration, e⟩ <;> rw [e]
  · exact ⟨rfl, rfl, rfl, rfl⟩
  · by_cases h : (c.spanDescriptor v.records volumes (c.spanEnd v.records duration)).kind = .unavailable
    · rw [fetchSpan_of_unavailable duration h]
      exact ⟨rfl, rfl, rfl, rfl⟩
    · rw [fetchSpan_of_delivered duration rfl h]
      exact ⟨rfl, rfl, rfl, moved_sequence ..⟩

/-- UNAVAILABLE leaves all but the state, and raises for a cursor that was not STALLED. -/
theorem fetchCurrent_unavailable (c : Cursor) (v : PathView) (volumes : Table Volume 64) (n : Fin 16)
    (rebuilt : Bool) : ((c.fetchCurrent v volumes n rebuilt).stalled = true ↔
        (c.fetchCurrent v volumes n rebuilt).descriptor.kind = .unavailable ∧ c.state ≠ .stalled) ∧
      ((c.fetchCurrent v volumes n rebuilt).descriptor.kind = .unavailable →
        (c.fetchCurrent v volumes n rebuilt).cursor = { c with state := .stalled }) := by
  rcases fetchCurrent_cases c v volumes n rebuilt with ⟨duration, count, e⟩ | ⟨duration, e⟩ <;> rw [e]
  · exact ⟨⟨fun h => (nomatch h), fun h => (nomatch h.1)⟩, fun h => nomatch h⟩
  · by_cases h : (c.spanDescriptor v.records volumes (c.spanEnd v.records duration)).kind = .unavailable
    · rw [fetchSpan_of_unavailable duration h]
      refine ⟨?_, fun _ => rfl⟩
      rw [decide_eq_true_eq]
      exact ⟨fun hs => ⟨h, hs⟩, fun hs => hs.2⟩
    · rw [fetchSpan_of_delivered duration rfl h]
      exact ⟨⟨fun h => (nomatch h), fun hs => absurd hs.1 h⟩, fun hs => absurd hs h⟩

theorem fetch_closed {s : State} {form : Byte} (h : (s.cursors.get n).state = .closed) :
    s.fetch form n = (s, ⟨.cursorState, []⟩) := by
  simp only [State.fetch, if_pos h, Response.bare]

theorem fetch_delivers {s : State} {form : Byte} (h : (s.cursors.get n).state ≠ .closed) {r : FetchResult}
    (hc : c = { s.cursors.get n with sequence := (s.cursors.get n).sequence + 1#16 })
    (hr : r = c.fetched (s.view c.clearance) s.volumes n) : s.fetch form n =
      (((if r.stalled then (stopRaised (s.setCursor n r.cursor) n r.stop).raise (.cursorStalled n)
        else stopRaised (s.setCursor n r.cursor) n r.stop).noteCondition form r.descriptor.kind.condition
          (r.descriptor.sticky r.raw false)).settleAndProceed, ⟨.ok, r.descriptor.bytes⟩) := by
  subst hc hr
  simp only [State.fetch, if_neg h, raiseStop_eq_stopRaised]

end

/-- Settles O32: what every FETCH answers, and what it leaves. -/
theorem fetchAnswers : Obligations.FetchAnswers := by
  unfold Obligations.FetchAnswers
  intro form cursor s n hs hn
  refine ⟨fun closed => exec_fetch hs hn (fetch_closed closed), fun closed c r hc hr =>
    ⟨⟨_, exec_fetch hs hn (fetch_delivers closed hc hr), pathWorkEnds_settleAndProceed _⟩, ?_⟩⟩
  have records : (s.view c.clearance).records = s.store.records := rfl
  rw [← records]
  generalize s.view c.clearance = v at *
  rcases fetched_cases c v s.volumes n with ⟨h, e⟩ | ⟨h, e⟩ | ⟨hd, hf, ⟨current, e⟩ |
    ⟨old, b, kind, stop, hk, sequence, e⟩ | ⟨old, yields, path, e⟩⟩ <;> rw [← hr] at e
  · subst e
    refine ⟨rfl, rfl, rfl, fun _ => ⟨rfl, rfl⟩, fun hf => ?_, ⟨fun h => (nomatch h), fun h => (nomatch h.1)⟩,
      fun h => nomatch h⟩
    simp [h] at hf
  · subst e
    refine ⟨rfl, rfl, rfl, fun hd => ?_, fun _ => ⟨rfl, rfl, rfl⟩, ⟨fun h => (nomatch h), fun h => (nomatch h.1)⟩,
      fun h => nomatch h⟩
    simp [h] at hd
  · obtain ⟨lead, sequence, -, cursor⟩ := fetchCurrent_stamped c v s.volumes n false
    obtain ⟨stalled, unavailable⟩ := fetchCurrent_unavailable c v s.volumes n false
    rw [← e] at lead sequence cursor stalled unavailable
    refine ⟨lead, sequence, cursor, fun h => absurd h hd, fun h => absurd h hf, stalled, fun h => ?_⟩
    rw [unavailable h]
    exact ⟨rfl, rfl, rfl, fun _ => rfl⟩
  · subst e
    refine ⟨rfl, sequence, sequence, fun h => absurd h hd, fun h => absurd h hf, ?_, fun h => ?_⟩
    · rcases hk with rfl | rfl <;> exact ⟨fun h => (nomatch h), fun h => (nomatch h.1)⟩
    · rcases hk with rfl | rfl <;> nomatch h
  · obtain ⟨lead, sequence, -, cursor⟩ := fetchCurrent_stamped
      { c with lastCopy := none, yieldFlag := yields, path := path } v s.volumes n true
    obtain ⟨stalled, unavailable⟩ := fetchCurrent_unavailable
      { c with lastCopy := none, yieldFlag := yields, path := path } v s.volumes n true
    rw [← e] at lead sequence cursor stalled unavailable
    refine ⟨lead, sequence, cursor, fun h => absurd h hd, fun h => absurd h hf, stalled, fun h => ?_⟩
    rw [unavailable h]
    exact ⟨rfl, rfl, rfl, fun h => by simp [old] at h⟩

/-! ### The copy chosen and the gain summed (R52, R127) -/

section
variable {t : Transfer} {volumes : Table Volume 64}

theorem eligibleCopy_primary (t : Transfer) (volumes : Table Volume 64) : t.eligibleCopy volumes .primary =
    if (volumes.get t.primary.volume).health = .online then some (.primary, t.primary) else none := by
  simp [Transfer.eligibleCopy, Transfer.placement, Placement.eligible]

theorem eligibleCopy_secondary {q : Placement} (h : t.secondary = some q) : t.eligibleCopy volumes .secondary =
    if (volumes.get q.volume).health = .online then some (.secondary, q) else none := by
  simp [Transfer.eligibleCopy, Transfer.placement, Placement.eligible, h]

theorem eligibleCopy_absent (h : t.secondary = none) : t.eligibleCopy volumes .secondary = none := by
  simp [Transfer.eligibleCopy, Transfer.placement, h]

/-- A copy that is chosen stands on an ONLINE volume. -/
theorem chooseCopy_online {preference : CopyPreference} {copy : Copy} {place : Placement}
    (h : t.chooseCopy volumes preference = some (copy, place)) : (volumes.get place.volume).health = .online := by
  obtain ⟨tried, -, hc⟩ := List.exists_of_findSome?_eq_some h
  unfold Transfer.eligibleCopy at hc
  cases hp : t.placement tried with
  | none => simp [hp] at hc
  | some q =>
    rw [hp] at hc
    dsimp only at hc
    split at hc
    · rename_i online
      cases hc
      simpa [Placement.eligible] using online
    · cases hc

/-- The sum is the cursor trim with the trims of every frame. -/
theorem rawGain_eq (records : List ItemRecord) (trim : Int) (path : List PathFrame) :
    rawGain records trim path = trim + (path.map fun f => f.trims records).sum := by
  unfold rawGain
  induction path generalizing trim with
  | nil => simp
  | cons f rest ih =>
    rw [List.foldl_cons, ih, List.map_cons, List.sum_cons]
    omega

end

/-- What is delivered of a span over a leaf that names no stored sound to read. -/
theorem fetched_of_gap {c : Cursor} {v : PathView} {volumes : Table Volume 64} {n : Fin 16} {r : ItemRecord}
    {d : Descriptor} (hd : c.state ≠ .detached) (hf : c.state ≠ .faulted)
    (current : pathCurrent v.records c.path = true) (hr : findRecord v.records c.top = some r)
    (h : c.position < r.duration)
    (span : c.spanDescriptor v.records volumes (c.spanEnd v.records r.duration) = d) :
    (d.kind ≠ .unavailable → (c.fetched v volumes n).descriptor =
      { d.stamped n c false with wrapped := c.pendingWrap }) ∧
    (d.kind = .unavailable → (c.fetched v volumes n).descriptor = d.stamped n c false) := by
  rw [fetched_of_current hd hf current, fetchCurrent_of_span hr h]
  refine ⟨fun hk => ?_, fun hk => ?_⟩
  · rw [fetchSpan_of_delivered r.duration span.symm hk]
  · rw [fetchSpan_of_unavailable r.duration (span ▸ hk), span]

/-- Settles O33: by the leaf, the stored indexes, and the copy chosen. -/
theorem fetchDescriptors : Obligations.FetchDescriptors := by
  unfold Obligations.FetchDescriptors
  refine ⟨fun t volumes first second h1 h2 => ?_, fun records trim path => ?_,
    fun c v volumes n r hd hf current hr => ⟨?_, fun f stop below hstop gap hgap => ⟨fun g leaf => ?_,
      fun leaf => ?_⟩, fun beyond => ?_⟩⟩
  · have primary : t.eligibleCopy volumes .primary = first := (eligibleCopy_primary t volumes).trans h1.symm
    have secondary : t.eligibleCopy volumes .secondary = second := by
      rw [h2]
      cases hs : t.secondary with
      | none => exact eligibleCopy_absent hs
      | some q => exact eligibleCopy_secondary hs
    simp only [Transfer.chooseCopy, CopyPreference.order, List.findSome?_cons, List.findSome?_nil, primary,
      secondary]
    cases first <;> cases second <;> exact ⟨rfl, rfl, rfl, rfl⟩
  · rw [rawGain_eq]
    refine congrArg (fun l => trim + List.sum l) (List.map_congr_left fun f _ => ?_)
    simp only [PathFrame.trims, PathFrame.segmentIn]
    cases (findRecord records f.accession).bind fun r => r.segments[f.segment]? with
    | none => rfl
    | some g =>
      obtain ⟨start, length, body⟩ := g
      cases body <;> rfl
  · rintro f g t stop first last raw below leaf rfl rfl rfl rfl gap unavailable rfl rfl
    refine ⟨fun silent => ?_, fun sound none => ?_, fun copy place sound chosen => ?_⟩
    · exact (fetched_of_gap hd hf current hr below (spanDescriptor_silent leaf silent)).1
        (by simp [Cursor.spanGap])
    · exact (fetched_of_gap hd hf current hr below ((spanDescriptor_sound leaf sound).1 none)).2 rfl
    · exact (fetched_of_gap hd hf current hr below ((spanDescriptor_sound leaf sound).2 copy place chosen)).1
        (by simp)
  · rw [hgap, hstop]
    exact (fetched_of_gap hd hf current hr below (spanDescriptor_lacuna leaf)).1 (by simp)
  · rw [hgap, hstop]
    exact (fetched_of_gap hd hf current hr below (spanDescriptor_overhang leaf)).1 (by simp)
  · rw [fetched_of_current hd hf current, fetchCurrent_of_end hr beyond]
    rfl

/-! ### AUDIO within what is stored (R45, R53, R97) -/

/-- A TRANSFER leaf is the segment in use of its frame. -/
theorem leafOf_transfer {records : List ItemRecord} {path : List PathFrame} {f : PathFrame} {g : Segment}
    {t : Transfer} (h : leafOf records path = .transfer f g t) :
    f.segmentIn records = some g ∧ ∃ trim, g.body = .transfer trim t := by
  unfold leafOf at h
  dsimp only at h
  split at h
  · rename_i hs
    cases h
    exact ⟨hs, _, rfl⟩
  · cases h
  · cases h

/-- What an AUDIO descriptor names: a run of stored samples of its leaf, on an ONLINE volume, at a gain in
range. -/
def Descriptor.playable (d : Descriptor) (records : List ItemRecord) (volumes : Table Volume 64) : Prop :=
  ∃ r g trim t volume, findRecord records d.leafAccession = some r ∧
    r.segments[d.leafSegment]? = some g ∧ g.body = .transfer trim t ∧
    d.indexStart < d.indexStart + d.count ∧ d.indexStart + d.count ≤ t.count ∧
    d.volume = volume.val ∧ (volumes.get volume).health = .online ∧ -600 ≤ d.gain ∧ d.gain ≤ 120

theorem spanDescriptor_playable {c : Cursor} {records : List ItemRecord} {volumes : Table Volume 64} {stop : Nat}
    (audio : (c.spanDescriptor records volumes stop).kind = .audio) :
    (c.spanDescriptor records volumes stop).playable records volumes := by
  cases leaf : leafOf records c.path with
  | overhang f => simp [spanDescriptor_overhang leaf] at audio
  | lacuna f g => simp [spanDescriptor_lacuna leaf] at audio
  | transfer f g t =>
    by_cases silent : t.storedIndex f g stop ≤ t.storedIndex f g c.position
    · simp [spanDescriptor_silent leaf silent, Cursor.spanGap] at audio
    obtain ⟨unread, read⟩ := spanDescriptor_sound (volumes := volumes) leaf (Nat.not_le.1 silent)
    cases chosen : t.chooseCopy volumes c.preference with
    | none => simp [unread chosen, Cursor.spanUnread] at audio
    | some x =>
      obtain ⟨copy, place⟩ := x
      obtain ⟨inUse, trim, body⟩ := leafOf_transfer leaf
      obtain ⟨r, hr, hg⟩ := Option.bind_eq_some_iff.1 inUse
      rw [read copy place chosen]
      have within : t.storedIndex f g stop ≤ t.count := min_le_right _ _
      refine ⟨r, g, trim, t, place.volume, hr, hg, body, ?_, ?_, rfl, chooseCopy_online chosen, ?_, ?_⟩ <;>
        simp only [Cursor.spanUnread] <;> omega

theorem fetchCurrent_playable {c : Cursor} {v : PathView} {volumes : Table Volume 64} {n : Fin 16} {rebuilt : Bool}
    (audio : (c.fetchCurrent v volumes n rebuilt).descriptor.kind = .audio) :
    (c.fetchCurrent v volumes n rebuilt).descriptor.playable v.records volumes := by
  rcases fetchCurrent_cases c v volumes n rebuilt with ⟨duration, count, e⟩ | ⟨duration, e⟩ <;> rw [e] at audio ⊢
  · cases audio
  · by_cases h : (c.spanDescriptor v.records volumes (c.spanEnd v.records duration)).kind = .unavailable
    · rw [fetchSpan_of_unavailable duration h] at audio
      exact nomatch h.symm.trans audio
    · rw [fetchSpan_of_delivered duration rfl h] at audio ⊢
      exact spanDescriptor_playable audio

/-- Settles O36: the least candidate, and AUDIO within what is stored. -/
theorem fetchStaysWithin : Obligations.FetchStaysWithin := by
  unfold Obligations.FetchStaysWithin
  refine ⟨fun c records duration candidates hc => spanEnd_least c records duration hc,
    fun c v volumes n d hd audio => ?_⟩
  show d.playable v.records volumes
  rcases fetched_cases c v volumes n with ⟨-, e⟩ | ⟨-, e⟩ | ⟨-, -, ⟨-, e⟩ | ⟨-, b, kind, stop, hk, -, e⟩ |
    ⟨-, yields, path, e⟩⟩ <;> rw [hd, e] at audio <;> rw [hd, e]
  · cases audio
  · cases audio
  · exact fetchCurrent_playable audio
  · rcases hk with rfl | rfl <;> cases audio
  · exact fetchCurrent_playable audio

end Sys2Proof.Machine
end

section
/-! SUPPORT. Reference resolution: the chain of successor links, the frames pushed down to a leaf, and what a push
meets in the deferral queue (chapter 4). -/

namespace Sys2Proof.Machine

/-! ### Successor links (R66) -/

/-- Each record of a chain but the last is WITHDRAWN and names the next. -/
def linked (records : List ItemRecord) (chain : List ItemRecord) : Prop :=
  ∀ k x y, chain[k]? = some x → chain[k + 1]? = some y →
    x.state = .withdrawn ∧ ∃ a, x.successor = some a ∧ findRecord records a = some y

section
variable {records : List ItemRecord} {r x : ItemRecord} {chain : List ItemRecord}

theorem linked_single (records : List ItemRecord) (r : ItemRecord) : linked records [r] := fun k x y _ hy => by
  simp at hy

theorem linked_cons {a : Nat} (hw : r.state = .withdrawn) (ha : r.successor = some a)
    (hh : chain.head? = findRecord records a) (h : linked records chain) : linked records (r :: chain) := by
  intro k x y hx hy
  cases k with
  | zero =>
    cases hx
    refine ⟨hw, a, ha, ?_⟩
    rw [← hh, List.head?_eq_getElem?]
    simpa using hy
  | succ k => exact h k x y (by simpa using hx) (by simpa using hy)

/-- Every record of a chain from a target is the record at its accession. -/
theorem linksFrom_stands {target : Nat} (h : linksFrom records target chain) (hx : x ∈ chain) :
    findRecord records x.accession = some x := by
  obtain ⟨-, head, links⟩ := h
  obtain ⟨k, hk, rfl⟩ := List.getElem_of_mem hx
  have found : ∃ a, findRecord records a = some chain[k] := by
    cases k with
    | zero =>
      rw [List.head?_eq_getElem?, List.getElem?_eq_getElem hk] at head
      exact ⟨target, head.symm⟩
    | succ k =>
      obtain ⟨-, a, -, ha⟩ := links k _ _ (List.getElem?_eq_getElem (by omega)) (List.getElem?_eq_getElem hk)
      exact ⟨a, ha⟩
  obtain ⟨a, ha⟩ := found
  rw [findRecord_accession ha, ha]

/-- Links followed to their end: the chain, and the record that ends it. -/
theorem followSuccessors_ok {links : Nat} {reached : ItemRecord}
    (h : followSuccessors records links r = .ok reached) :
    ∃ chain, chain.head? = some r ∧ linked records chain ∧ chain.length ≤ links + 1 ∧
      chain.getLast? = some reached ∧ reached.state ≠ .withdrawn ∧
      (r.state = .withdrawn ↔ 1 < chain.length) := by
  induction links generalizing r with
  | zero =>
    unfold followSuccessors at h
    split at h
    · split at h <;> cases h
    · rename_i hw
      cases h
      exact ⟨[reached], rfl, linked_single _ _, by simp, rfl, hw, by simp [hw]⟩
  | succ links ih =>
    unfold followSuccessors at h
    split at h
    · rename_i hw
      split at h
      · cases h
      · rename_i a ha
        dsimp only at h
        split at h
        · cases h
        · rename_i next hn
          obtain ⟨chain, head, chained, length, last, state, -⟩ := ih h
          have some : chain ≠ [] := fun e => by simp [e] at head
          have pos := List.length_pos_of_ne_nil some
          refine ⟨r :: chain, rfl, linked_cons hw ha (head.trans hn.symm) chained, by simpa using length, ?_, state,
            by simp [hw]; omega⟩
          rw [List.getLast?_cons, last]
          rfl
    · rename_i hw
      cases h
      exact ⟨[reached], rfl, linked_single _ _, by simp, rfl, hw, by simp [hw]⟩

/-- Links that end at no record: the chain, and what stopped it. -/
theorem followSuccessors_error {links : Nat} {code : FaultCode}
    (h : followSuccessors records links r = .error code) :
    ∃ chain x, chain.head? = some r ∧ linked records chain ∧ chain.length ≤ links + 1 ∧
      chain.getLast? = some x ∧ x.state = .withdrawn ∧
      ((code = .missingTarget ∧ chain.length ≤ links ∧
          ∃ a, x.successor = some a ∧ findRecord records a = none) ∨
        (code = .withdrawnTarget ∧ x.successor = none) ∨
        (code = .successorChain ∧ chain.length = links + 1 ∧ x.successor.isSome = true)) := by
  induction links generalizing r with
  | zero =>
    unfold followSuccessors at h
    split at h
    · rename_i hw
      refine ⟨[r], r, rfl, linked_single _ _, by simp, rfl, hw, ?_⟩
      split at h
      · rename_i hn
        cases h
        exact .inr (.inl ⟨rfl, hn⟩)
      · rename_i a ha
        cases h
        exact .inr (.inr ⟨rfl, rfl, by simp [ha]⟩)
    · cases h
  | succ links ih =>
    unfold followSuccessors at h
    split at h
    · rename_i hw
      split at h
      · rename_i hn
        cases h
        exact ⟨[r], r, rfl, linked_single _ _, by simp, rfl, hw, .inr (.inl ⟨rfl, hn⟩)⟩
      · rename_i a ha
        dsimp only at h
        split at h
        · rename_i hn
          cases h
          exact ⟨[r], r, rfl, linked_single _ _, by simp, rfl, hw, .inl ⟨rfl, by simp, a, ha, hn⟩⟩
        · rename_i next hn
          obtain ⟨chain, x, head, chained, length, last, state, why⟩ := ih h
          refine ⟨r :: chain, x, rfl, linked_cons hw ha (head.trans hn.symm) chained, by simpa using length, ?_,
            state, ?_⟩
          · rw [List.getLast?_cons, last]
            rfl
          · simpa using why
    · cases h

end

/-! ### A push resolved (R65) -/

section
variable {v : PathView} {target : Nat} {r : ItemRecord} {via : Bool} {code : FaultCode}

theorem resolveTarget_chain (h : resolveTarget v target = .ok (r, via)) :
    ∃ chain, linksFrom v.records target chain ∧ chain.length ≤ 5 ∧ chain.getLast? = some r ∧
      r.state ≠ .withdrawn ∧ r.restriction ≤ v.clearance ∧ via = decide (1 < chain.length) := by
  unfold resolveTarget at h
  cases ht : findRecord v.records target with
  | none => simp [ht] at h
  | some first =>
    simp only [ht] at h
    cases hf : followSuccessors v.records Config.linkLimit first with
    | error code => simp [hf] at h
    | ok reached =>
      simp only [hf] at h
      split at h
      · cases h
      · rename_i admitted
        cases h
        obtain ⟨chain, head, chained, length, last, state, follows⟩ := followSuccessors_ok hf
        refine ⟨chain, ⟨fun e => by simp [e] at head, head.trans ht.symm, chained⟩, length, last, state,
          Nat.not_lt.1 admitted, ?_⟩
        simp only [follows]

theorem resolveTarget_record (h : resolveTarget v target = .ok (r, via)) :
    findRecord v.records r.accession = some r := by
  obtain ⟨chain, links, -, last, -⟩ := resolveTarget_chain h
  exact linksFrom_stands links (List.mem_of_getLast? last)

theorem resolveTarget_faults (h : resolveTarget v target = .error code) : pushFaults v target code := by
  unfold resolveTarget at h
  cases ht : findRecord v.records target with
  | none =>
    simp only [ht] at h
    cases h
    exact .inl ⟨rfl, ht⟩
  | some first =>
    refine .inr ?_
    simp only [ht] at h
    cases hf : followSuccessors v.records Config.linkLimit first with
    | error code =>
      simp only [hf] at h
      cases h
      obtain ⟨chain, x, head, chained, length, last, state, why⟩ := followSuccessors_error hf
      refine ⟨chain, x, ⟨fun e => by simp [e] at head, head.trans ht.symm, chained⟩, length, last, ?_⟩
      rcases why with ⟨rfl, short, next⟩ | ⟨rfl, none⟩ | ⟨rfl, long, some⟩
      · exact .inl ⟨rfl, short, state, next⟩
      · exact .inr (.inl ⟨rfl, state, none⟩)
      · exact .inr (.inr (.inl ⟨rfl, long, state, some⟩))
    | ok reached =>
      simp only [hf] at h
      split at h
      · rename_i refused
        cases h
        obtain ⟨chain, head, chained, length, last, state, -⟩ := followSuccessors_ok hf
        exact ⟨chain, reached, ⟨fun e => by simp [e] at head, head.trans ht.symm, chained⟩, length, last,
          .inr (.inr (.inr ⟨rfl, state, refused⟩))⟩
      · cases h

end

/-! ### The frames pushed (R62, R63, R69, R73, R101) -/

section
variable {v : PathView} {p room : Nat} {standing : List PathFrame} {w : Walk} {f : PathFrame}

/-- Where no REFERENCE stands below, the newest frame is a leaf frame. -/
theorem referenceBelow_eq_none {records : List ItemRecord} {path : List PathFrame}
    (h : referenceBelow records path = none) {x : PathFrame} {g : Segment} (hx : path.getLast? = some x)
    (hg : x.segmentIn records = some g) : ∀ trim target offset, g.body ≠ .reference trim target offset := by
  rintro trim target offset hb
  obtain ⟨start, length, body⟩ := g
  cases hb
  simp [referenceBelow, hx, hg] at h

theorem referenceBelow_eq_some {records : List ItemRecord} {path : List PathFrame} {target : Nat}
    {displacement : Int} (h : referenceBelow records path = some (target, displacement)) :
    ∃ x g trim offset, path.getLast? = some x ∧ x.segmentIn records = some g ∧
      g.body = .reference trim target offset ∧ displacement = x.displacement + g.start - offset := by
  unfold referenceBelow at h
  split at h
  · cases h
  · rename_i x hx
    split at h
    · rename_i start length trim target offset hg
      cases h
      exact ⟨x, _, trim, offset, hx, hg, rfl, rfl⟩
    · cases h

/-- A newest frame that is no REFERENCE's ends the descent. -/
theorem referenceBelow_of_leaf {records : List ItemRecord} {path : List PathFrame} {x : PathFrame}
    (hx : path.getLast? = some x)
    (h : ∀ g, x.segmentIn records = some g → ∀ trim target offset, g.body ≠ .reference trim target offset) :
    referenceBelow records path = none := by
  cases hr : referenceBelow records path with
  | none => rfl
  | some d =>
    obtain ⟨y, g, trim, offset, hy, hg, hb, -⟩ := referenceBelow_eq_some (displacement := d.2) hr
    obtain rfl := Option.some.inj (hx.symm.trans hy)
    exact absurd hb (h g hg trim d.1 offset)

/-! The four branches of a descent. -/

theorem descend_of_stop (h : w.stop.isSome = true) : Walk.descend v p room w = w := by
  unfold Walk.descend
  rw [if_pos h]

theorem descend_of_leaf (h : referenceBelow v.records w.path = none) : Walk.descend v p room w = w := by
  unfold Walk.descend
  simp [h]

theorem descend_of_depth {d : Nat × Int} (hs : w.stop = none) (h : referenceBelow v.records w.path = some d) :
    Walk.descend v p 0 w = w.faulted .depth := by
  obtain ⟨target, displacement⟩ := d
  unfold Walk.descend
  simp [hs, h]

theorem descend_of_fault {target : Nat} {displacement : Int} {code : FaultCode} (hs : w.stop = none)
    (h : referenceBelow v.records w.path = some (target, displacement))
    (hr : resolveTarget v target = .error code) : Walk.descend v p (room + 1) w = w.faulted code := by
  rw [Walk.descend]
  simp [hs, h, hr]

theorem descend_of_push {target : Nat} {displacement : Int} {r : ItemRecord} {via : Bool} (hs : w.stop = none)
    (h : referenceBelow v.records w.path = some (target, displacement))
    (hr : resolveTarget v target = .ok (r, via)) :
    Walk.descend v p (room + 1) w = Walk.descend v p room (w.push v (frameFor r displacement via p)) := by
  rw [Walk.descend]
  simp [hs, h, hr]

/-- Path work that has pushed frames below the standing ones, and has not faulted. -/
def walkSound (v : PathView) (p : Nat) (standing : List PathFrame) (w : Walk) : Prop :=
  (∀ code, w.stop ≠ some (.fault code)) ∧
  ∃ pushed, w.path = standing ++ pushed ∧
    (∀ k x y, w.path[k]? = some x → w.path[k + 1]? = some y → standing.length ≤ k + 1 → pushEnters v p x y) ∧
    (w.yielded = true ↔ ∃ f ∈ pushed, v.action f.accession = .yield) ∧
    (∀ k f, pushed[k]? = some f →
      (v.action f.accession = .detach ↔ w.stop = some .detached ∧ k + 1 = pushed.length)) ∧
    (w.stop = some .detached → pushed ≠ [])

theorem walkSound_standing (v : PathView) (p : Nat) (standing : List PathFrame) :
    walkSound v p standing ⟨standing, false, none⟩ := by
  refine ⟨fun code h => (nomatch h), [], by simp, fun k x y hx hy hk => ?_, by simp, by simp, by simp⟩
  have := (List.getElem?_eq_some_iff.1 hy).1
  simp only at this
  omega

theorem Walk.push_yielded (w : Walk) (v : PathView) (f : PathFrame) :
    (w.push v f).yielded = (w.yielded || decide (v.action f.accession = .yield)) := by
  unfold Walk.push
  cases v.action f.accession <;> simp

theorem Walk.push_stop_none (hs : w.stop = none) :
    (w.push v f).stop = if v.action f.accession = .detach then some .detached else none := by
  rw [w.push_stop, hs]

theorem walkSound_push (h : walkSound v p standing w) (hs : w.stop = none)
    (enters : ∀ x, w.path.getLast? = some x → standing.length ≤ w.path.length → pushEnters v p x f) :
    walkSound v p standing (w.push v f) := by
  obtain ⟨-, pushed, path, pairs, yielded, detach, -⟩ := h
  have stop := Walk.push_stop_none (v := v) (f := f) hs
  refine ⟨fun code hc => ?_, pushed ++ [f], by simp [path], fun k x y hx hy hk => ?_, ?_, fun k g hg => ?_,
    fun _ => by simp⟩
  · rw [stop] at hc
    split at hc <;> cases hc
  · rw [Walk.push_path] at hx hy
    rcases Nat.lt_or_ge (k + 1) w.path.length with old | new
    · rw [List.getElem?_append_left old] at hy
      rw [List.getElem?_append_left (by omega)] at hx
      exact pairs k x y hx hy hk
    · have len : k + 1 = w.path.length := by
        have := (List.getElem?_eq_some_iff.1 hy).1
        simp only [List.length_append, List.length_singleton] at this
        omega
      rw [len, List.getElem?_concat_length] at hy
      cases hy
      rw [List.getElem?_append_left (by omega)] at hx
      refine enters x ?_ (len ▸ hk)
      rw [List.getLast?_eq_getElem?, ← len]
      exact hx
  · rw [Walk.push_yielded, Bool.or_eq_true, yielded, decide_eq_true_eq]
    simp [or_and_right, exists_or]
  · rw [stop]
    rcases Nat.lt_or_ge k pushed.length with old | new
    · rw [List.getElem?_append_left old] at hg
      have none := detach k g hg
      simp only [hs] at none
      have : k ≠ pushed.length := old.ne
      simp [this, none]
    · have len : k = pushed.length := by
        have := (List.getElem?_eq_some_iff.1 hg).1
        simp only [List.length_append, List.length_singleton] at this
        omega
      subst len
      rw [List.getElem?_concat_length] at hg
      cases hg
      by_cases hd : v.action f.accession = .detach <;> simp [hd]

theorem resolvesFrom_of_leaf (h : walkSound v p standing w) (len : w.path.length ≤ 4)
    (leaf : w.stop = none → ∀ x g, w.path.getLast? = some x → x.segmentIn v.records = some g →
      ∀ trim target offset, g.body ≠ .reference trim target offset) : resolvesFrom v p standing w := by
  obtain ⟨unfaulted, pushed, path, pairs, yielded, detach, some⟩ := h
  exact ⟨pushed, path, len, pairs, yielded, detach, some, leaf, fun code hc => absurd hc (unfaulted code)⟩

theorem resolvesFrom_of_fault {code : FaultCode} (h : walkSound v p standing w) (hs : w.stop = none)
    (len : w.path.length ≤ 4) (why : ∃ x g trim target offset, w.path.getLast? = some x ∧
      x.segmentIn v.records = some g ∧ g.body = .reference trim target offset ∧
      ((w.path.length = 4 ∧ code = .depth) ∨ (w.path.length < 4 ∧ pushFaults v target code))) :
    resolvesFrom v p standing (w.faulted code) := by
  obtain ⟨-, pushed, path, pairs, yielded, detach, -⟩ := h
  refine ⟨pushed, path, len, pairs, yielded, fun k f hf => ?_, fun h => (nomatch h), fun h => (nomatch h),
    fun code' hc => ?_⟩
  · have none := detach k f hf
    simp only [hs] at none
    simp [Walk.faulted, none]
  · obtain rfl : code = code' := by simpa [Walk.faulted] using hc
    exact why

/-- A descent resolves: to a leaf frame, a push that faulted, or one that met a DETACH. -/
theorem descend_resolves (h : walkSound v p standing w) (some : w.path ≠ [])
    (len : w.path.length ≤ 4) (hroom : room = 4 - w.path.length) :
    resolvesFrom v p standing (Walk.descend v p room w) := by
  induction room generalizing w with
  | zero =>
    have full : w.path.length = 4 := by omega
    cases hs : w.stop with
    | some stop =>
      rw [descend_of_stop (by simp [hs])]
      exact resolvesFrom_of_leaf h len fun hn => by simp [hs] at hn
    | none =>
      cases hb : referenceBelow v.records w.path with
      | none =>
        rw [descend_of_leaf hb]
        exact resolvesFrom_of_leaf h len fun _ x g hx hg => referenceBelow_eq_none hb hx hg
      | some d =>
        obtain ⟨x, g, trim, offset, hx, hg, body, -⟩ := referenceBelow_eq_some (displacement := d.2) hb
        rw [descend_of_depth hs hb]
        exact resolvesFrom_of_fault h hs len ⟨x, g, trim, d.1, offset, hx, hg, body, .inl ⟨full, rfl⟩⟩
  | succ room ih =>
    cases hs : w.stop with
    | some stop =>
      rw [descend_of_stop (by simp [hs])]
      exact resolvesFrom_of_leaf h len fun hn => by simp [hs] at hn
    | none =>
      cases hb : referenceBelow v.records w.path with
      | none =>
        rw [descend_of_leaf hb]
        exact resolvesFrom_of_leaf h len fun _ x g hx hg => referenceBelow_eq_none hb hx hg
      | some d =>
        obtain ⟨target, displacement⟩ := d
        obtain ⟨x, g, trim, offset, hx, hg, body, disp⟩ := referenceBelow_eq_some hb
        cases hr : resolveTarget v target with
        | error code =>
          rw [descend_of_fault hs hb hr]
          exact resolvesFrom_of_fault h hs len ⟨x, g, trim, target, offset, hx, hg, body,
            .inr ⟨by omega, resolveTarget_faults hr⟩⟩
        | ok pushed =>
          obtain ⟨r, via⟩ := pushed
          obtain ⟨chain, links, length, last, state, admitted, follows⟩ := resolveTarget_chain hr
          rw [descend_of_push hs hb hr]
          refine ih (walkSound_push h hs fun y hy _ => ?_) (by simp) (by simp; omega) (by simp; omega)
          obtain rfl := Option.some.inj (hx.symm.trans hy)
          exact ⟨g, trim, target, offset, chain, r, hg, body, links, length, last, state, admitted, rfl, rfl, disp,
            rfl, follows⟩

end

/-! ### The segment in use (R28, R61, R67) -/

/-- A tiling holds each position in one segment, and none beyond. -/
theorem segmentAt_of_tiles {start stop : Nat} {l : List Segment} {t : Int} (h : tilesFrom start l stop) :
    ((start : Int) ≤ t → t < stop → ∃ g, l[segmentAt l t]? = some g ∧ (g.start : Int) ≤ t ∧
      t < (g.start : Int) + g.length) ∧ ((stop : Int) ≤ t → segmentAt l t = l.length) := by
  induction l generalizing start with
  | nil =>
    obtain rfl : start = stop := h
    exact ⟨fun h1 h2 => by omega, fun _ => rfl⟩
  | cons g rest ih =>
    obtain ⟨hg, pos, tiles⟩ := h
    obtain ⟨inside, beyond⟩ := ih tiles
    have reach : start + g.length ≤ stop := by
      clear ih inside beyond pos hg
      generalize start + g.length = s at tiles
      induction rest generalizing s with
      | nil => exact (show s = stop from tiles).le
      | cons x rest ih =>
        have := ih _ tiles.2.2
        omega
    by_cases holds : g.holds t = true
    · have at0 : segmentAt (g :: rest) t = 0 := by simp [segmentAt, List.findIdx_cons, holds]
      simp only [Segment.holds, decide_eq_true_eq] at holds
      exact ⟨fun _ _ => ⟨g, by rw [at0]; rfl, holds.1, by omega⟩, fun _ => by omega⟩
    · have next : segmentAt (g :: rest) t = segmentAt rest t + 1 := by
        simp [segmentAt, List.findIdx_cons, holds]
      simp only [Segment.holds, decide_eq_true_eq, not_and] at holds
      rw [next]
      refine ⟨fun h1 h2 => ?_, fun h => by rw [beyond h]; rfl⟩
      rw [List.getElem?_cons_succ]
      refine inside ?_ h2
      have := holds (by omega)
      omega

/-! ### A build (R63, R64) -/

section
variable {v : PathView} {top p : Nat} {r : ItemRecord}

theorem buildPath_missing (h : findRecord v.records top = none) :
    buildPath v top p = ⟨[], false, some (.fault .missingTarget)⟩ := by
  simp only [buildPath, h, Walk.faulted]

theorem buildPath_withdrawn (hr : findRecord v.records top = some r) (h : r.state = .withdrawn) :
    buildPath v top p = ⟨[], false, some (.fault .withdrawnTarget)⟩ := by
  simp only [buildPath, hr, if_pos h, Walk.faulted]

theorem buildPath_restricted (hr : findRecord v.records top = some r) (hw : r.state ≠ .withdrawn)
    (h : v.clearance < r.restriction) : buildPath v top p = ⟨[], false, some (.fault .restrictedTarget)⟩ := by
  simp only [buildPath, hr, if_neg hw, if_pos h, Walk.faulted]

theorem buildPath_descends (hr : findRecord v.records top = some r) (hw : r.state ≠ .withdrawn)
    (h : r.restriction ≤ v.clearance) : buildPath v top p = Walk.descend v p 3
      ((⟨[], false, none⟩ : Walk).push v ⟨top, r.revision, segmentAt r.segments p, 0, false⟩) := by
  have frame : frameFor r 0 false p = ⟨top, r.revision, segmentAt r.segments p, 0, false⟩ := by
    simp [frameFor, findRecord_accession hr]
  simp only [buildPath, hr, if_neg hw, if_neg (Nat.not_lt.2 h), frame]
  rfl

theorem buildPath_resolves (hr : findRecord v.records top = some r) (hw : r.state ≠ .withdrawn)
    (h : r.restriction ≤ v.clearance) : resolvesFrom v p [] (buildPath v top p) := by
  rw [buildPath_descends hr hw h]
  exact descend_resolves (walkSound_push (walkSound_standing v p []) rfl fun x hx _ => by simp at hx)
    (by simp) (by simp) (by simp)

/-- A frame at its item's end is a leaf frame. -/
theorem buildPath_at_end (hr : findRecord v.records top = some r) (hw : r.state ≠ .withdrawn)
    (h : r.restriction ≤ v.clearance) (tiled : r.tiled) (hp : p = r.duration) :
    (buildPath v top p).path = [⟨top, r.revision, segmentAt r.segments p, 0, false⟩] ∧
      segmentAt r.segments p = r.segments.length := by
  have last : segmentAt r.segments p = r.segments.length := (segmentAt_of_tiles tiled.2.2).2 (by omega)
  refine ⟨?_, last⟩
  rw [buildPath_descends hr hw h, descend_of_leaf]
  · simp
  · refine referenceBelow_of_leaf (x := ⟨top, r.revision, segmentAt r.segments p, 0, false⟩) (by simp)
      fun g hg => ?_
    simp [PathFrame.segmentIn, hr, last] at hg

end

/-! ### An advance (R69, R70) -/

section
variable {v : PathView} {above below : List PathFrame} {f kept : PathFrame} {p : Nat}

theorem turnsAt_eq_false {records : List ItemRecord}
    (h : ∀ g, f.segmentIn records = some g → g.holds (p - f.displacement) = true) :
    f.turnsAt records p = false := by
  unfold PathFrame.turnsAt
  cases hs : f.segmentIn records with
  | none => rfl
  | some g => simp [PathFrame.localAt, h g hs]

theorem turnsAt_eq_true {records : List ItemRecord}
    (h : ∃ g, f.segmentIn records = some g ∧ g.holds (p - f.displacement) = false) :
    f.turnsAt records p = true := by
  obtain ⟨g, hs, hg⟩ := h
  simp [PathFrame.turnsAt, hs, PathFrame.localAt, hg]

/-- The frames above the first one that turns stay as they are. -/
theorem keptFrames_turning {records : List ItemRecord}
    (stay : ∀ x ∈ above, ∀ g, x.segmentIn records = some g → g.holds (p - x.displacement) = true)
    (turn : ∃ g, f.segmentIn records = some g ∧ g.holds (p - f.displacement) = false)
    (hk : kept = { f with
      segment := segmentAt (((findRecord records f.accession).map (·.segments)).getD []) (p - f.displacement) }) :
    keptFrames records p (above ++ f :: below) = (above ++ [kept], true) := by
  induction above with
  | nil =>
    rw [List.nil_append, keptFrames, if_pos (turnsAt_eq_true turn), hk]
    rfl
  | cons x rest ih =>
    have still : f.turnsAt records p = true := turnsAt_eq_true turn
    rw [List.cons_append, keptFrames, if_neg (by simp [turnsAt_eq_false (stay x List.mem_cons_self)]),
      ih fun y hy => stay y (List.mem_cons_of_mem x hy)]
    rfl

theorem keptFrames_standing {records : List ItemRecord} {path : List PathFrame}
    (stay : ∀ x ∈ path, ∀ g, x.segmentIn records = some g → g.holds (p - x.displacement) = true) :
    keptFrames records p path = (path, false) := by
  induction path with
  | nil => rfl
  | cons x rest ih =>
    rw [keptFrames, if_neg (by simp [turnsAt_eq_false (stay x List.mem_cons_self)]),
      ih fun y hy => stay y (List.mem_cons_of_mem x hy)]

theorem advancePath_turning
    (stay : ∀ x ∈ above, ∀ g, x.segmentIn v.records = some g → g.holds (p - x.displacement) = true)
    (turn : ∃ g, f.segmentIn v.records = some g ∧ g.holds (p - f.displacement) = false)
    (hk : kept = { f with
      segment := segmentAt (((findRecord v.records f.accession).map (·.segments)).getD [])
        (p - f.displacement) }) :
    advancePath v (above ++ f :: below) p =
      Walk.descend v p (4 - (above ++ [kept]).length) ⟨above ++ [kept], false, none⟩ := by
  rw [advancePath, keptFrames_turning stay turn hk]
  rfl

theorem advancePath_standing {path : List PathFrame}
    (stay : ∀ x ∈ path, ∀ g, x.segmentIn v.records = some g → g.holds (p - x.displacement) = true) :
    advancePath v path p = ⟨path, false, none⟩ := by
  rw [advancePath, keptFrames_standing stay]
  rfl

theorem advancePath_resolves (len : above.length ≤ 3)
    (stay : ∀ x ∈ above, ∀ g, x.segmentIn v.records = some g → g.holds (p - x.displacement) = true)
    (turn : ∃ g, f.segmentIn v.records = some g ∧ g.holds (p - f.displacement) = false)
    (hk : kept = { f with
      segment := segmentAt (((findRecord v.records f.accession).map (·.segments)).getD [])
        (p - f.displacement) }) :
    resolvesFrom v p (above ++ [kept]) (advancePath v (above ++ f :: below) p) := by
  rw [advancePath_turning stay turn hk]
  exact descend_resolves (walkSound_standing v p _) (by simp) (by simp; omega) rfl

end

/-! ### What a push meets (R73, R171) -/

/-- The strongest of a list of actions. -/
theorem foldl_stronger (l : List Action) (acc : Action) : l.foldl Action.stronger acc =
    if acc = .detach ∨ .detach ∈ l then .detach else if acc = .yield ∨ .yield ∈ l then .yield
    else if acc = .notify ∨ .notify ∈ l then .notify else .none := by
  induction l generalizing acc with
  | nil => cases acc <;> simp
  | cons x rest ih =>
    rw [List.foldl_cons, ih]
    cases acc <;> cases x <;> simp [Action.stronger, Action.rank]

section
variable {s : State} {a : Nat}

theorem pushAction_of_none (h : ∀ e ∈ s.queue, e.accession ≠ a) : s.pushAction a = .none := by
  have none : s.entry? a = none := List.find?_eq_none.2 fun e he => by simpa using h e he
  simp [State.pushAction, none]

theorem pushAction_of_entry (nodup : (s.queue.map (·.accession)).Nodup) {e : Entry} (he : e ∈ s.queue) :
    s.pushAction e.accession = if e.state = .committing then .none else s.settings.strongest e.stage := by
  simp [State.pushAction, State.entry?_eq nodup he]

end

/-- Settles O27: a build and an advance resolve by one descent, from an empty path or from the frames kept. -/
theorem pathsResolve : Obligations.PathsResolve := by
  unfold Obligations.PathsResolve
  refine ⟨?_, fun v above below f kept p len stay turn hk => advancePath_resolves len stay turn hk,
    fun segments duration t h => segmentAt_of_tiles h, fun s clearance a => ⟨rfl, rfl, pushAction_of_none,
      fun nodup e he ha => ?_⟩⟩
  · rintro v top p w rfl
    refine ⟨buildPath_missing, fun r hr => ⟨buildPath_withdrawn hr, buildPath_restricted hr, ?_⟩⟩
    rintro hw h frame rfl
    refine ⟨?_, buildPath_resolves hr hw h, fun tiled hp => buildPath_at_end hr hw h tiled hp⟩
    obtain ⟨added, path, -, -⟩ := Walk.descend_path v p 3
      ((⟨[], false, none⟩ : Walk).push v ⟨top, r.revision, segmentAt r.segments p, 0, false⟩)
    rw [buildPath_descends hr hw h, path]
    simp
  · subst ha
    have meets : (s.view clearance).action e.accession = _ := pushAction_of_entry nodup he
    rw [meets]
    refine ⟨fun committing => if_pos committing, fun waits actions hactions => ?_⟩
    rw [if_neg waits, Settings.strongest, ← hactions, foldl_stronger]
    simp

end Sys2Proof.Machine
end

section
/-! SUPPORT. A FETCH that moves its cursor, and a FETCH on a path built anew (sections 4.2, 4.6, 5.5). -/

namespace Sys2Proof.Machine

/-! ### Where a descent ends (R63, R69, R75) -/

section
variable {v : PathView} {p room : Nat} {w : Walk}

/-- A descent ends in a walk that its pushes reach: stopped or at a leaf frame, or faulted there. -/
theorem descend_reaches {P : Walk → Prop} (room : Nat) (h : P w)
    (push : ∀ u target displacement r via, P u → resolveTarget v target = .ok (r, via) →
      P (u.push v (frameFor r displacement via p))) :
    ∃ u, P u ∧
      ((Walk.descend v p room w = u ∧ (u.stop.isSome = true ∨ referenceBelow v.records u.path = none)) ∨
        ∃ code, Walk.descend v p room w = u.faulted code) := by
  induction room generalizing w with
  | zero =>
    refine ⟨w, h, ?_⟩
    cases hs : w.stop with
    | some stop => exact .inl ⟨descend_of_stop (by simp [hs]), by simp⟩
    | none =>
      cases hb : referenceBelow v.records w.path with
      | none => exact .inl ⟨descend_of_leaf hb, by simp⟩
      | some d => exact .inr ⟨_, descend_of_depth hs hb⟩
  | succ room ih =>
    cases hs : w.stop with
    | some stop => exact ⟨w, h, .inl ⟨descend_of_stop (by simp [hs]), by simp [hs]⟩⟩
    | none =>
      cases hb : referenceBelow v.records w.path with
      | none => exact ⟨w, h, .inl ⟨descend_of_leaf hb, by simp [hb]⟩⟩
      | some d =>
        cases hr : resolveTarget v d.1 with
        | error code => exact ⟨w, h, .inr ⟨code, descend_of_fault (displacement := d.2) hs hb hr⟩⟩
        | ok pushed =>
          rw [descend_of_push (displacement := d.2) (via := pushed.2) hs hb hr]
          exact ih (push w d.1 d.2 pushed.1 pushed.2 h hr)

/-- A descent that nothing stopped has come to a leaf frame. -/
theorem descend_leaf (h : (Walk.descend v p room w).stop = none) :
    referenceBelow v.records (Walk.descend v p room w).path = none := by
  obtain ⟨u, -, ⟨e, stop | leaf⟩ | ⟨code, e⟩⟩ :=
    descend_reaches (v := v) (p := p) (w := w) (P := fun _ => True) room trivial fun _ _ _ _ _ _ _ => trivial
  · rw [e] at h
    simp [h] at stop
  · rwa [e]
  · rw [e] at h
    cases h

end

/-! ### The revision check (R75) -/

theorem pathCurrent_iff (records : List ItemRecord) (path : List PathFrame) : pathCurrent records path = true ↔
    ∀ f ∈ path, ∃ r, findRecord records f.accession = some r ∧ r.revision = f.revisionSeen := by
  rw [pathCurrent, List.all_eq_true]
  refine forall₂_congr fun f _ => ?_
  cases findRecord records f.accession <;> simp

section
variable {v : PathView} {p : Nat}

/-- A frame pushed has just seen its record's revision. -/
theorem pathCurrent_push {w : Walk} {r : ItemRecord} {displacement : Int} {via : Bool}
    (h : pathCurrent v.records w.path = true) (hr : findRecord v.records r.accession = some r) :
    pathCurrent v.records (w.push v (frameFor r displacement via p)).path = true := by
  rw [pathCurrent_iff] at h ⊢
  intro f hf
  rw [Walk.push_path, List.mem_append, List.mem_singleton] at hf
  rcases hf with hf | rfl
  · exact h f hf
  · exact ⟨r, hr, rfl⟩

theorem descend_current (room : Nat) {w : Walk} (h : pathCurrent v.records w.path = true) :
    pathCurrent v.records (Walk.descend v p room w).path = true := by
  obtain ⟨u, current, ⟨e, -⟩ | ⟨code, e⟩⟩ :=
    descend_reaches (v := v) (p := p) (P := fun u => pathCurrent v.records u.path = true) room h
      fun u _ _ _ _ hu hr => pathCurrent_push hu (resolveTarget_record hr)
  · rwa [e]
  · rwa [e, Walk.faulted_path]

/-- A path built anew is current. -/
theorem buildPath_current {top : Nat} (h : (buildPath v top p).stop = none) :
    pathCurrent v.records (buildPath v top p).path = true := by
  cases hr : findRecord v.records top with
  | none => simp [buildPath_missing hr] at h
  | some r =>
    by_cases hw : r.state = .withdrawn
    · simp [buildPath_withdrawn hr hw] at h
    · by_cases hc : v.clearance < r.restriction
      · simp [buildPath_restricted hr hw hc] at h
      · rw [buildPath_descends hr hw (Nat.not_lt.1 hc)]
        refine descend_current 3 ?_
        rw [pathCurrent_iff]
        simp [hr]

end

/-! ### REBUILT (R90) -/

/-- What a FETCH delivers on a path does not depend on whether it was built anew, but for REBUILT. -/
theorem fetchCurrent_rebuilt (c : Cursor) (v : PathView) (volumes : Table Volume 64) (n : Fin 16) :
    c.fetchCurrent v volumes n true = { c.fetchCurrent v volumes n false with
      descriptor := { (c.fetchCurrent v volumes n false).descriptor with rebuilt := true } } := by
  unfold Cursor.fetchCurrent
  dsimp only
  split
  · rfl
  · generalize ((findRecord v.records c.top).map (·.duration)).getD 0 = duration
    by_cases h : (c.spanDescriptor v.records volumes (c.spanEnd v.records duration)).kind = .unavailable
    · rw [fetchSpan_of_unavailable duration h, fetchSpan_of_unavailable duration h]
      rfl
    · rw [fetchSpan_of_delivered duration rfl h, fetchSpan_of_delivered duration rfl h]
      rfl

/-- Settles O35: the frames a build pushes have seen their records' revisions, so what follows it is the FETCH
on a current path. -/
theorem fetchRebuilds : Obligations.FetchRebuilds := by
  unfold Obligations.FetchRebuilds
  refine ⟨pathCurrent_iff, fun c v volumes n hd hf => ⟨fun current => ?_, ?_⟩⟩
  · rw [fetched_of_current hd hf current]
    exact (fetchCurrent_stamped c v volumes n false).2.2.1
  · rintro stale w b rfl rfl
    obtain ⟨faults, detaches⟩ := fetched_of_stopped (volumes := volumes) (n := n) hd hf stale rfl rfl
    refine ⟨fun hs => ?_, fun code hs => ?_, fun hs => ?_⟩
    · have current := buildPath_current hs
      refine ⟨current, ?_⟩
      have carried := fetched_of_current (volumes := volumes) (n := n) (c := { c with
        lastCopy := none, yieldFlag := c.yieldFlag || (buildPath v c.top c.position).yielded
        path := (buildPath v c.top c.position).path }) hd hf current
      rw [fetched_of_rebuilt hd hf stale rfl hs, fetchCurrent_rebuilt, ← carried]
    · rw [faults code hs]
      simp only [Cursor.landed, hs]
      rfl
    · rw [detaches hs]
      simp only [Cursor.landed, hs]
      rfl

/-! ### The move (R94 to R96) -/

section
variable {c : Cursor} {v : PathView} {duration stop : Nat}

/-- The cursor at a place it moved to, its path work done. -/
def Cursor.arrived (c : Cursor) (w : Walk) (ends : Prop) [Decidable ends] : Cursor :=
  if w.stop.isSome then c.landed w
  else { c.landed w with state := if ends then .ended else (c.landed w).playing }

theorem moved_of_wraps {l : LoopRegion}
    (h : (c.applyingLoop duration).filter (fun l => decide (l.stop = stop)) = some l) :
    c.moved v duration stop =
      (({ c with position := l.start, lastCopy := none, pendingWrap := true } : Cursor).arrived
        (buildPath v c.top l.start) False, (buildPath v c.top l.start).stop) := by
  simp only [Cursor.moved, h]
  rfl

theorem moved_of_passes (h : (c.applyingLoop duration).filter (fun l => decide (l.stop = stop)) = none) :
    c.moved v duration stop =
      (({ c with position := stop } : Cursor).arrived (advancePath v c.path stop) (stop = duration),
        (advancePath v c.path stop).stop) := by
  simp only [Cursor.moved, h, Cursor.arrived]

/-- The loop a move wraps round is the one that applies and ends the span. -/
theorem applyingLoop_wraps (c : Cursor) (duration stop : Nat) :
    (c.applyingLoop duration).filter (fun l => decide (l.stop = stop)) =
      c.loop.filter fun l => decide (l.stop ≤ duration ∧ c.position < l.stop ∧ l.stop = stop) := by
  rw [Cursor.applyingLoop, Option.filter_filter]
  congr 1
  funext l
  rw [Bool.eq_iff_iff]
  simp [and_assoc]

/-- Where a cursor that arrived stands, by what met its pushes. -/
theorem Cursor.arrived_eq (c : Cursor) (w : Walk) (ends : Prop) [Decidable ends] {m : Cursor}
    (hm : m = { c with yieldFlag := c.yieldFlag || w.yielded }) :
    (w.stop = none → c.arrived w ends = { m with
      path := w.path, state := if ends then .ended else if m.yieldFlag then .yielding else .open }) ∧
    (∀ code, w.stop = some (.fault code) → c.arrived w ends = { m with
      state := .faulted, path := [], lastCopy := none, fault := some code }) ∧
    (w.stop = some .detached → c.arrived w ends = { m with
      state := .detached, path := [], lastCopy := none, pendingWrap := false, fault := none }) := by
  subst hm
  refine ⟨fun hs => ?_, fun code hs => ?_, fun hs => ?_⟩ <;>
    · simp only [Cursor.arrived, Cursor.landed, hs]
      rfl

end

/-- A FETCH that delivers AUDIO or GAP on a current path moves its cursor by the span. -/
theorem fetched_moves {c : Cursor} {v : PathView} {volumes : Table Volume 64} {n : Fin 16} {r : ItemRecord}
    (hd : c.state ≠ .detached) (hf : c.state ≠ .faulted) (current : pathCurrent v.records c.path = true)
    (hr : findRecord v.records c.top = some r) (below : c.position < r.duration)
    (kind : (c.fetched v volumes n).descriptor.kind = .audio ∨ (c.fetched v volumes n).descriptor.kind = .gap)
    {b : Cursor} (hb : b = { c with
      pendingWrap := false
      lastCopy := if (c.fetched v volumes n).descriptor.kind = .audio then (c.fetched v volumes n).descriptor.copy
        else c.lastCopy }) :
    (c.fetched v volumes n).cursor = (b.moved v r.duration (c.spanEnd v.records r.duration)).1 ∧
      (c.fetched v volumes n).stop = (b.moved v r.duration (c.spanEnd v.records r.duration)).2 := by
  subst hb
  rw [fetched_of_current hd hf current, fetchCurrent_of_span hr below] at kind ⊢
  have delivers : (c.spanDescriptor v.records volumes (c.spanEnd v.records r.duration)).kind ≠ .unavailable := by
    intro unread
    rw [fetchSpan_of_unavailable r.duration unread] at kind
    simp [Descriptor.stamped, unread] at kind
  rw [fetchSpan_of_delivered r.duration rfl delivers]
  exact ⟨rfl, rfl⟩

/-- Settles O34: the move goes round the loop by a build or on by an advance, and an advance descends from the
frame that turns. -/
theorem fetchMoves : Obligations.FetchMoves := by
  unfold Obligations.FetchMoves
  refine ⟨?_, ?_, fun v path p stay => advancePath_standing stay⟩
  · rintro c v volumes n r d stop hd hf current hr below rfl rfl kind wraps w m hwraps rfl rfl
    obtain ⟨b, hb⟩ : ∃ b : Cursor, b = { c with
        pendingWrap := false
        lastCopy := if (c.fetched v volumes n).descriptor.kind = .audio then (c.fetched v volumes n).descriptor.copy
          else c.lastCopy } := ⟨_, rfl⟩
    obtain ⟨moves, stops⟩ := fetched_moves hd hf current hr below kind hb
    have wraps_eq : (b.applyingLoop r.duration).filter
        (fun l => decide (l.stop = c.spanEnd v.records r.duration)) = wraps := by
      rw [hwraps, hb]
      exact applyingLoop_wraps c r.duration _
    rw [moves, stops]
    cases wraps with
    | some l =>
      rw [moved_of_wraps wraps_eq, hb]
      have arrives := Cursor.arrived_eq { c with position := l.start, lastCopy := none, pendingWrap := true }
        (buildPath v c.top l.start) False rfl
      simp only [reduceCtorEq, false_and]
      exact ⟨trivial, arrives⟩
    | none =>
      rw [moved_of_passes wraps_eq, hb]
      simp only [true_and]
      exact Cursor.arrived_eq _ _ _ rfl
  · rintro v above below f p stay turn kept hk
    rw [advancePath_turning stay turn hk]
    obtain ⟨pushed, path, -, -⟩ :=
      Walk.descend_path v p (4 - (above ++ [kept]).length) ⟨above ++ [kept], false, none⟩
    simp only [List.append_assoc, List.singleton_append] at path
    refine ⟨pushed, path, fun hs x g hx hg => ?_, fun leaf => ?_⟩
    · exact referenceBelow_eq_none (path ▸ descend_leaf hs) hx hg
    · have ends := descend_of_leaf (p := p) (room := 4 - (above ++ [kept]).length)
        (w := ⟨above ++ [kept], false, none⟩) (referenceBelow_of_leaf (x := kept) (by simp) leaf)
      rw [ends] at path ⊢
      exact ⟨by simpa using path.symm, rfl⟩

end Sys2Proof.Machine
end
